-- ==== Sys2Proof/Word.lean ====
section
/-!
DEFINITION. The word types of the CHIP-8 CORE: bytes, 16-bit words and register numbers
(spec 00_scope.md R7, section 5; 10_state.md R31, R36, R38).
-/

namespace Sys2Proof

/-- `u8`: a general register, a timer, a memory cell (R7: `V_WIDTH`, `TIMER_WIDTH`). -/
abbrev Byte := BitVec 8

/-- `u16`: `I`, `pc`, a stack entry, an instruction word (R7: `I_WIDTH`, `PC_WIDTH`). -/
abbrev Word := BitVec 16

/-- The number of a general register, `0x0` to `0xF` (R31, R32: always a 4-bit field). -/
abbrev Reg := Fin 16

/-- `VF`, "register 15" (R31), which doubles as the flag register (R35). -/
abbrev VF : Reg := 15

end Sys2Proof
end

