-- ==== Sys2Proof/Syntax.lean ====
section
/-!
DEFINITION. The instruction set: one constructor per row of the opcode map (spec 30_encoding.md R105),
with the operands of R101 and R103.
-/

namespace Sys2Proof

/-- The 34 instructions of R105, in the table's order. `x` and `y` are register numbers, `kk` is a byte,
`nnn` is the 12-bit immediate zero-extended to 16 bits and `n` is a row count (R103: the ranges of
`nnn` and `n` are the check of `Instr.WellFormed`). -/
inductive Instr where
  | cls                          -- 00E0
  | ret                          -- 00EE
  | jp (nnn : Word)              -- 1nnn
  | call (nnn : Word)            -- 2nnn
  | seImm (x : Reg) (kk : Byte)  -- 3xkk
  | sneImm (x : Reg) (kk : Byte) -- 4xkk
  | seReg (x y : Reg)            -- 5xy0
  | ldImm (x : Reg) (kk : Byte)  -- 6xkk
  | addImm (x : Reg) (kk : Byte) -- 7xkk
  | ldReg (x y : Reg)            -- 8xy0
  | or (x y : Reg)               -- 8xy1
  | and (x y : Reg)              -- 8xy2
  | xor (x y : Reg)              -- 8xy3
  | addReg (x y : Reg)           -- 8xy4
  | sub (x y : Reg)              -- 8xy5
  | shr (x y : Reg)              -- 8xy6
  | subn (x y : Reg)             -- 8xy7
  | shl (x y : Reg)              -- 8xyE
  | sneReg (x y : Reg)           -- 9xy0
  | ldI (nnn : Word)             -- Annn
  | jpV0 (nnn : Word)            -- Bnnn
  | rnd (x : Reg) (kk : Byte)    -- Cxkk
  | drw (x y : Reg) (n : Nat)    -- Dxyn
  | skp (x : Reg)                -- Ex9E
  | sknp (x : Reg)               -- ExA1
  | ldVxDt (x : Reg)             -- Fx07
  | ldVxK (x : Reg)              -- Fx0A
  | ldDtVx (x : Reg)             -- Fx15
  | ldStVx (x : Reg)             -- Fx18
  | addIVx (x : Reg)             -- Fx1E
  | ldFVx (x : Reg)              -- Fx29
  | ldBVx (x : Reg)              -- Fx33
  | ldMemVx (x : Reg)            -- Fx55
  | ldVxMem (x : Reg)            -- Fx65
deriving DecidableEq, Repr

end Sys2Proof
end

