-- ==== Sys2Proof/WellFormed.lean ====
section
/-!
DEFINITION. Well-formed instructions: the operand ranges of spec 30_encoding.md R103 that the operand
types do not already carry.
-/

namespace Sys2Proof

/-- `nnn` is `zext_16(w[11:0])`, 0x000..0xFFF (R103). -/
abbrev addressImmOk (nnn : Word) : Bool := decide (nnn.toNat < 0x1000)

/-- `n` is `w[3:0]`, 0..15 (R103). -/
abbrev rowCountOk (n : Nat) : Bool := decide (n < 16)

/-- Every operand is in the range its field can hold (R103). Register numbers and byte immediates are
in range by their types. -/
def Instr.WellFormed : Instr → Bool
  | .jp nnn => addressImmOk nnn
  | .call nnn => addressImmOk nnn
  | .ldI nnn => addressImmOk nnn
  | .jpV0 nnn => addressImmOk nnn
  | .drw _ _ n => rowCountOk n
  | .cls | .ret => true
  | .seImm _ _ | .sneImm _ _ | .ldImm _ _ | .addImm _ _ | .rnd _ _ => true
  | .seReg _ _ | .sneReg _ _ | .ldReg _ _ | .or _ _ | .and _ _ | .xor _ _ => true
  | .addReg _ _ | .sub _ _ | .shr _ _ | .subn _ _ | .shl _ _ => true
  | .skp _ | .sknp _ | .ldVxDt _ | .ldVxK _ | .ldDtVx _ | .ldStVx _ => true
  | .addIVx _ | .ldFVx _ | .ldBVx _ | .ldMemVx _ | .ldVxMem _ => true

end Sys2Proof
end

