-- ==== Sys2Proof/Decode.lean ====
section
/-!
DEFINITION. The decoder (spec 30_encoding.md R100 to R110), total on every word and every byte sequence,
and the encoder written from the same formats (R104).
-/

namespace Sys2Proof

/-- `hi : lo`, the big-endian word of two bytes (20_memory.md R76: the byte at the lower address is
bits 15..8). -/
def wordOfBytes (hi lo : Byte) : Word := BitVec.ofNat 16 (hi.toNat * 0x100 + lo.toNat)

/-- Bits 15..8 of a word: the byte stored first. -/
def highByte (w : Word) : Byte := w.extractLsb 15 8

/-- Bits 7..0 of a word: the byte stored second. -/
def lowByte (w : Word) : Byte := w.extractLsb 7 0

/-! ## Fields (R101) -/

/-- `op = w[15:12]`. -/
def opField (w : Word) : Nat := (w.extractLsb 15 12).toNat

/-- `x = w[11:8]`. -/
def xField (w : Word) : Reg := (w.extractLsb 11 8).toFin

/-- `y = w[7:4]`. -/
def yField (w : Word) : Reg := (w.extractLsb 7 4).toFin

/-- `n = w[3:0]`. -/
def nField (w : Word) : Nat := (w.extractLsb 3 0).toNat

/-- `kk = w[7:0]`. -/
def kkField (w : Word) : Byte := w.extractLsb 7 0

/-- `nnn = zext_16(w[11:0])` (R103). -/
def nnnField (w : Word) : Word := (w.extractLsb 11 0).setWidth 16

/-! ## The decode procedure (R106) -/

/-- Why the decoder refuses. -/
inductive Reject where
  /-- Fewer than two bytes: no instruction is shorter or longer than one word (R100). -/
  | tooShort
  /-- "(any unmatched pattern)": InvalidOpcode (R107). -/
  | invalidOpcode (w : Word)
deriving DecidableEq, Repr

/-- The rows `8xy_` of R106, by `n`. -/
def decodeAlu (w : Word) : Except Reject Instr :=
  match nField w with
  | 0x0 => .ok (.ldReg (xField w) (yField w))
  | 0x1 => .ok (.or (xField w) (yField w))
  | 0x2 => .ok (.and (xField w) (yField w))
  | 0x3 => .ok (.xor (xField w) (yField w))
  | 0x4 => .ok (.addReg (xField w) (yField w))
  | 0x5 => .ok (.sub (xField w) (yField w))
  | 0x6 => .ok (.shr (xField w) (yField w))
  | 0x7 => .ok (.subn (xField w) (yField w))
  | 0xE => .ok (.shl (xField w) (yField w))
  | _ => .error (.invalidOpcode w)

/-- The rows `Fx__` of R106, by `kk`. -/
def decodeMisc (w : Word) : Except Reject Instr :=
  match (kkField w).toNat with
  | 0x07 => .ok (.ldVxDt (xField w))
  | 0x0A => .ok (.ldVxK (xField w))
  | 0x15 => .ok (.ldDtVx (xField w))
  | 0x18 => .ok (.ldStVx (xField w))
  | 0x1E => .ok (.addIVx (xField w))
  | 0x29 => .ok (.ldFVx (xField w))
  | 0x33 => .ok (.ldBVx (xField w))
  | 0x55 => .ok (.ldMemVx (xField w))
  | 0x65 => .ok (.ldVxMem (xField w))
  | _ => .error (.invalidOpcode w)

/-- `decode(w)` of R106: first on the high nibble, then on sub-fields; every fixed nibble must match
(D3, log 22) and every other word is InvalidOpcode (R107, R108). -/
def decode (w : Word) : Except Reject Instr :=
  match opField w with
  | 0x0 =>
    if w = 0x00E0 then .ok .cls
    else if w = 0x00EE then .ok .ret
    else .error (.invalidOpcode w)
  | 0x1 => .ok (.jp (nnnField w))
  | 0x2 => .ok (.call (nnnField w))
  | 0x3 => .ok (.seImm (xField w) (kkField w))
  | 0x4 => .ok (.sneImm (xField w) (kkField w))
  | 0x5 => if nField w = 0x0 then .ok (.seReg (xField w) (yField w)) else .error (.invalidOpcode w)
  | 0x6 => .ok (.ldImm (xField w) (kkField w))
  | 0x7 => .ok (.addImm (xField w) (kkField w))
  | 0x8 => decodeAlu w
  | 0x9 => if nField w = 0x0 then .ok (.sneReg (xField w) (yField w)) else .error (.invalidOpcode w)
  | 0xA => .ok (.ldI (nnnField w))
  | 0xB => .ok (.jpV0 (nnnField w))
  | 0xC => .ok (.rnd (xField w) (kkField w))
  | 0xD => .ok (.drw (xField w) (yField w) (nField w))
  | 0xE =>
    if kkField w = 0x9E then .ok (.skp (xField w))
    else if kkField w = 0xA1 then .ok (.sknp (xField w))
    else .error (.invalidOpcode w)
  | 0xF => decodeMisc w
  | _ => .error (.invalidOpcode w)

/-- Decoding a byte sequence: "a decoder always consumes exactly 2 bytes" (R100). -/
def decodeBytes : List Byte → Except Reject (Instr × List Byte)
  | hi :: lo :: rest =>
    match decode (wordOfBytes hi lo) with
    | .ok i => .ok (i, rest)
    | .error r => .error r
  | [_] => .error .tooShort
  | [] => .error .tooShort

/-! ## The encoder (R104, with `a : b` as `a * 2^k + b`) -/

/-- Format `NNN`: `op:4 nnn:12`. -/
def nnnWord (op : Nat) (nnn : Word) : Word := BitVec.ofNat 16 (op * 0x1000 + nnn.toNat % 0x1000)

/-- Formats `XKK` (`kk` an operand) and `XSS` (`kk` fixed): `op:4 x:4 kk:8`. -/
def xkkWord (op : Nat) (x : Reg) (kk : Byte) : Word :=
  BitVec.ofNat 16 (op * 0x1000 + x.val * 0x100 + kk.toNat)

/-- Formats `XYN` (`n` an operand) and `XYS` (`n` fixed): `op:4 x:4 y:4 n:4`. -/
def xynWord (op : Nat) (x y : Reg) (n : Nat) : Word :=
  BitVec.ofNat 16 (op * 0x1000 + x.val * 0x100 + y.val * 0x10 + n % 0x10)

/-- The word of a well-formed instruction: its row of R105. -/
def encode : Instr → Word
  | .cls => 0x00E0
  | .ret => 0x00EE
  | .jp nnn => nnnWord 0x1 nnn
  | .call nnn => nnnWord 0x2 nnn
  | .seImm x kk => xkkWord 0x3 x kk
  | .sneImm x kk => xkkWord 0x4 x kk
  | .seReg x y => xynWord 0x5 x y 0x0
  | .ldImm x kk => xkkWord 0x6 x kk
  | .addImm x kk => xkkWord 0x7 x kk
  | .ldReg x y => xynWord 0x8 x y 0x0
  | .or x y => xynWord 0x8 x y 0x1
  | .and x y => xynWord 0x8 x y 0x2
  | .xor x y => xynWord 0x8 x y 0x3
  | .addReg x y => xynWord 0x8 x y 0x4
  | .sub x y => xynWord 0x8 x y 0x5
  | .shr x y => xynWord 0x8 x y 0x6
  | .subn x y => xynWord 0x8 x y 0x7
  | .shl x y => xynWord 0x8 x y 0xE
  | .sneReg x y => xynWord 0x9 x y 0x0
  | .ldI nnn => nnnWord 0xA nnn
  | .jpV0 nnn => nnnWord 0xB nnn
  | .rnd x kk => xkkWord 0xC x kk
  | .drw x y n => xynWord 0xD x y n
  | .skp x => xkkWord 0xE x 0x9E
  | .sknp x => xkkWord 0xE x 0xA1
  | .ldVxDt x => xkkWord 0xF x 0x07
  | .ldVxK x => xkkWord 0xF x 0x0A
  | .ldDtVx x => xkkWord 0xF x 0x15
  | .ldStVx x => xkkWord 0xF x 0x18
  | .addIVx x => xkkWord 0xF x 0x1E
  | .ldFVx x => xkkWord 0xF x 0x29
  | .ldBVx x => xkkWord 0xF x 0x33
  | .ldMemVx x => xkkWord 0xF x 0x55
  | .ldVxMem x => xkkWord 0xF x 0x65

/-! ## The opcode map (R105) -/

/-- One row of R105: "a word `w` is the instruction when `w & mask == match`" (`bits` is the row's
`match`). -/
structure OpcodeRow where
  mnemonic : String
  bits : Word
  mask : Word
deriving DecidableEq, Repr

/-- The 34 rows of R105. -/
def opcodeTable : List OpcodeRow :=
  [⟨"CLS", 0x00E0, 0xFFFF⟩, ⟨"RET", 0x00EE, 0xFFFF⟩, ⟨"JP", 0x1000, 0xF000⟩,
   ⟨"CALL", 0x2000, 0xF000⟩, ⟨"SE_IMM", 0x3000, 0xF000⟩, ⟨"SNE_IMM", 0x4000, 0xF000⟩,
   ⟨"SE_REG", 0x5000, 0xF00F⟩, ⟨"LD_IMM", 0x6000, 0xF000⟩, ⟨"ADD_IMM", 0x7000, 0xF000⟩] ++
  [⟨"LD_REG", 0x8000, 0xF00F⟩, ⟨"OR", 0x8001, 0xF00F⟩, ⟨"AND", 0x8002, 0xF00F⟩,
   ⟨"XOR", 0x8003, 0xF00F⟩, ⟨"ADD_REG", 0x8004, 0xF00F⟩, ⟨"SUB", 0x8005, 0xF00F⟩,
   ⟨"SHR", 0x8006, 0xF00F⟩, ⟨"SUBN", 0x8007, 0xF00F⟩, ⟨"SHL", 0x800E, 0xF00F⟩] ++
  [⟨"SNE_REG", 0x9000, 0xF00F⟩, ⟨"LD_I", 0xA000, 0xF000⟩, ⟨"JP_V0", 0xB000, 0xF000⟩,
   ⟨"RND", 0xC000, 0xF000⟩, ⟨"DRW", 0xD000, 0xF000⟩, ⟨"SKP", 0xE09E, 0xF0FF⟩,
   ⟨"SKNP", 0xE0A1, 0xF0FF⟩] ++
  [⟨"LD_VX_DT", 0xF007, 0xF0FF⟩, ⟨"LD_VX_K", 0xF00A, 0xF0FF⟩, ⟨"LD_DT_VX", 0xF015, 0xF0FF⟩,
   ⟨"LD_ST_VX", 0xF018, 0xF0FF⟩, ⟨"ADD_I_VX", 0xF01E, 0xF0FF⟩, ⟨"LD_F_VX", 0xF029, 0xF0FF⟩,
   ⟨"LD_B_VX", 0xF033, 0xF0FF⟩, ⟨"LD_MEM_VX", 0xF055, 0xF0FF⟩, ⟨"LD_VX_MEM", 0xF065, 0xF0FF⟩]

/-- Whether a word is an instruction of a row. -/
def OpcodeRow.Matches (r : OpcodeRow) (w : Word) : Bool := w &&& r.mask == r.bits

/-! ## The opcode table's own numbering of an instruction's bits -/

/-- The instruction word among `nbits` table bits: every bit above `nbits` is 0, and bits 15..0 are the
first word. -/
def tableWord (nbits w : Nat) : Word := BitVec.ofNat 16 (w % 2 ^ nbits)

/-- What the decoder reads from the bytes of a table word, laid out as memory holds them (R76). -/
def decodeTableWord (nbits w : Nat) : Option Instr :=
  match decodeBytes [highByte (tableWord nbits w), lowByte (tableWord nbits w)] with
  | .ok (i, _) => some i
  | .error _ => none

end Sys2Proof
end

