-- ==== Sys2Proof/Config.lean ====
section
/-!
DEFINITION. What an implementation fixes (the parameters of spec 00_scope.md R7) as types, and the two
inputs no rule constrains, as free values. The values this hardware gives the parameters are
`Machine.hardware` (Machine/Params.lean).
-/

namespace Sys2Proof

/-- `I_WRAP` (R7, 43_index_memory.md R207): how a computed write to `I` is reduced. -/
inductive IWrap where
  | mask12
  | wrap16
deriving DecidableEq, Repr

/-- `OPERAND_RANGE_POLICY` (R7, 45_keys_timers.md R240): what a key index or glyph digit above 0xF does. -/
inductive OperandRangePolicy where
  | fault
  | maskLowNibble
deriving DecidableEq, Repr

/-- `FONT` (R7, 20_memory.md R80): the 80 glyph bytes, digit 0 first. -/
abbrev Font := Vector Byte 80

/-- The parameters of R7 that are not fixed sizes of the machine (R8 fixes the others). -/
structure Params where
  iWrap : IWrap
  operandRange : OperandRangePolicy
  stackDepth : Nat
  batch : Nat
  glyphBase : Nat
  font : Font
deriving DecidableEq, Repr

/-- `keys[0..15]`, one flag per hexadecimal key (10_state.md R47). -/
abbrev Latch := Vector Bool 16

/-- FREE VALUE: the latch value of the `n`-th tick when the host has queued none: "the model ... places
no law on it (any of the 2^16 values)" (10_state.md R52; log 3). -/
opaque Config.freeLatch : Nat → Latch

/-- FREE VALUE: the byte of the `n`-th execution of Cxkk when the random source has queued none: "the
model takes any byte (a draw under no law)" (10_state.md R53, 42_alu.md R183; log 4). -/
opaque Config.freeRandom : Nat → Byte

end Sys2Proof
end

