-- ==== Sys2Proof/Machine/Params.lean ====
section
/-!
DEFINITION. The parameter values of this hardware (spec 00_scope.md R7) and its fixed sizes (R8).
-/

namespace Sys2Proof.Machine

/-- `MEM_SIZE` (R7): addresses 0x000..0xFFF. -/
def memSize : Nat := 0x1000

/-- `PROGRAM_BASE` (R7): reset `pc` and load address. -/
def programBase : Nat := 0x200

/-- `MAX_PROGRAM` (R7, 20_memory.md R84). -/
def maxProgram : Nat := 0xE00

/-- The bytes of one glyph (R7: `GLYPH_BYTES`). -/
def glyphBytes : Nat := 5

/-- The 80 glyph bytes of 20_memory.md R80, digit 0 first (PRESUMED by the spec, D13; log 7). -/
def glyphTable : List Byte :=
  [0xF0, 0x90, 0x90, 0x90, 0xF0, 0x20, 0x60, 0x20, 0x20, 0x70] ++
  [0xF0, 0x10, 0xF0, 0x80, 0xF0, 0xF0, 0x10, 0xF0, 0x10, 0xF0] ++
  [0x90, 0x90, 0xF0, 0x10, 0x10, 0xF0, 0x80, 0xF0, 0x10, 0xF0] ++
  [0xF0, 0x80, 0xF0, 0x90, 0xF0, 0xF0, 0x10, 0x20, 0x40, 0x40] ++
  [0xF0, 0x90, 0xF0, 0x90, 0xF0, 0xF0, 0x90, 0xF0, 0x10, 0xF0] ++
  [0xF0, 0x90, 0xF0, 0x90, 0x90, 0xE0, 0x90, 0xE0, 0x90, 0xE0] ++
  [0xF0, 0x80, 0x80, 0x80, 0xF0, 0xE0, 0x90, 0x90, 0x90, 0xE0] ++
  [0xF0, 0x80, 0xF0, 0x80, 0xF0, 0xF0, 0x80, 0xF0, 0x80, 0x80]

/-- The default of `FONT`: the table of R80. -/
def conventionalFont : Font := ⟨glyphTable.toArray, by decide⟩

/-- The values this hardware takes (R7): `I_WRAP` D7 (log 8), `OPERAND_RANGE_POLICY` D11 (log 9),
`STACK_DEPTH` D14 (log 10), `BATCH` (60_exceptions.md R280), `GLYPH_BASE` and `FONT` D13 (log 7). -/
def hardware : Params where
  iWrap := .mask12
  operandRange := .fault
  stackDepth := 16
  batch := 8
  glyphBase := 0x000
  font := conventionalFont

end Sys2Proof.Machine
end

