-- ==== Sys2Proof/Machine/State.lean ====
section
/-!
DEFINITION. The architectural state of the CORE (spec 10_state.md R30), the fatal errors and the halt
record, the reasons an operation of the model can stop, and the state after reset (R60).
-/

namespace Sys2Proof.Machine

/-- The fatal errors (60_exceptions.md R260), each with what its record keeps besides `pc` and the word. -/
inductive FatalError where
  /-- "an access to an address above 0xFFF"; the faulting address. -/
  | addressFault (address : Nat)
  /-- 2nnn with a full stack. -/
  | stackOverflow
  /-- 00EE with an empty stack. -/
  | stackUnderflow
  /-- A key index or glyph digit above 0xF; the value. -/
  | operandRange (value : Byte)
deriving DecidableEq, Repr

/-- The halt record `{kind, pc, word or none, address, value}` (60_exceptions.md R265). -/
structure HaltRecord where
  error : FatalError
  pc : Word
  word : Option Word
deriving DecidableEq, Repr

/-- The frame scheduler's state (10_state.md R48). -/
inductive RunState where
  | running
  | halted
deriving DecidableEq, Repr

/-- One InvalidOpcode report `(a, w)` (10_state.md R50). -/
structure Report where
  pc : Word
  word : Word
deriving DecidableEq, Repr

/-- `disp[x][y]`: 64 columns of 32 pixels (10_state.md R46). -/
abbrev Display := Vector (Vector Bool 32) 64

/-- Memory: the cells that differ from their reset contents, in rising order of address
(`Memory.wf`, Machine/Ops.lean; log 15). -/
abbrev Memory := List Host.Cell

/-- What the host has queued for the core, and how often each input has been taken (the MODEL's own
state: 10_state.md R52, R53; log 3, log 4). -/
structure Env where
  /-- Latch values of the ticks to come, the next one first. -/
  latches : List Latch
  /-- Random bytes to come, the next one first. -/
  randoms : List Byte
  /-- Ticks begun so far. -/
  ticks : Nat
  /-- Random bytes taken so far. -/
  draws : Nat
deriving DecidableEq, Repr

/-- The state record of R30, under the spec's names, and the model's own scheduler and input fields. -/
structure State where
  /-- General registers V0..VF (R31). -/
  V : Vector Byte 16
  /-- Address register (R36). -/
  I : Word
  /-- Program counter (R38). -/
  pc : Word
  /-- Call stack, top last (R42). -/
  stack : List Word
  /-- Delay timer (R44). -/
  DT : Byte
  /-- Sound timer (R44). -/
  ST : Byte
  /-- Memory (20_memory.md R70). -/
  mem : Memory
  /-- Display buffer (R46). -/
  disp : Display
  /-- Running or Halted (R48). -/
  run : RunState
  /-- Why the machine halted (R49). -/
  haltRecord : Option HaltRecord
  /-- InvalidOpcode reports, the oldest first (R50). -/
  reports : List Report
  /-- The latch value of the current tick (R47, R52). -/
  keys : Latch
  /-- MODEL: steps of the current tick still to run; 0 between ticks (R59, 60_exceptions.md R280; log 2). -/
  batch : Nat
  /-- MODEL: a load may still be made (20_memory.md R86; log 17). -/
  loadOpen : Bool
  /-- MODEL: the inputs to come (R52, R53; log 3, log 4). -/
  env : Env
deriving DecidableEq, Repr

/-- The faults of this model. Every fatal error of a step is a NEXT state with `run = halted`
(60_exceptions.md R263; log 11), so no step raises one. -/
inductive Fault where
  /-- Raised by the host's `load` (and by nothing else) for an image longer than 0xE00 bytes; "the machine
  is left unmodified" (20_memory.md R85). Safe: the spec says the load fails so. -/
  | romTooLarge
deriving DecidableEq, Repr

/-- The refusals of this model. -/
inductive Refusal where
  /-- An instruction without a meaning, by its mnemonic. No arm of `exec` raises it in this model. Safe. -/
  | notModelled (mnemonic : String)
  /-- Raised by the host's `load` (and by nothing else) when it is not the one load after reset and
  before the first tick: "a model refuses it" (20_memory.md R86). Safe. -/
  | loadOutOfTurn
  /-- Raised by the host actions `tick`, `load`, `quit` and `reset` and by the host's reading of the outputs
  (and by no step) in the middle of a tick: the host acts and reads "between ticks only"
  (60_exceptions.md R287, 20_memory.md R89). Safe. -/
  | midTick
deriving DecidableEq, Repr

/-- What a step, an instruction or a host action answers. -/
abbrev Answer := Host.Outcome State Fault Refusal

/-- `RESET_REGS` (00_scope.md R7): the reset values the source does not give. -/
structure ResetRegs where
  V : Vector Byte 16
  I : Word
  DT : Byte
  ST : Byte
deriving DecidableEq, Repr

/-- The default of `RESET_REGS`: 0 everywhere (R60, decision D1; log 5). -/
def ResetRegs.zero : ResetRegs := ⟨Vector.replicate 16 0, 0, 0, 0⟩

/-- The reset state with given values for the registers the source leaves open (R60,
70_reset_and_hazards.md R303) and given reset contents of memory (20_memory.md R80; `Memory.ofFont`,
Machine/Ops.lean, gives them for any `FONT`). The model's own fields start as log 6 says. -/
def State.resetWith (r : ResetRegs) (mem : Memory) : State where
  V := r.V
  I := r.I
  pc := 0x0200
  stack := []
  DT := r.DT
  ST := r.ST
  mem := mem
  disp := Vector.replicate 64 (Vector.replicate 32 false)
  run := .running
  haltRecord := none
  reports := []
  keys := Vector.replicate 16 false
  batch := 0
  loadOpen := true
  env := ⟨[], [], 0, 0⟩

/-- The machine right after reset (R60, 70_reset_and_hazards.md R300), with the default values of
`RESET_REGS` and `FONT`: memory lists nothing, so every cell holds its reset contents (log 15). -/
def State.reset : State := State.resetWith ResetRegs.zero []

end Sys2Proof.Machine
end

