-- ==== Sys2Proof/Machine/Ops.lean ====
section
/-!
DEFINITION. The named operations over memory, registers, stack, display and program counter, and the
taking of a fatal error (spec 20_memory.md, 40_step.md, 43_index_memory.md R204 and R207, 44_display.md
R221, 60_exceptions.md R263 to R265).
-/

namespace Sys2Proof.Machine

/-! ## Memory (20_memory.md) -/

/-- What an unlisted cell `a` reads as: its contents after reset under the default `FONT`, the glyph bytes
and then "zero-fill" (R80; log 15). -/
def Memory.initial (a : Nat) : Byte :=
  if hardware.glyphBase ≤ a then hardware.font.toList.getD (a - hardware.glyphBase) 0 else 0

/-- The byte in cell `a`: the listed one, or the reset contents (R72: a read changes nothing). -/
def Memory.read (m : Memory) (a : Nat) : Byte :=
  match m with
  | [] => Memory.initial a
  | (k, b) :: rest => if k = a then b else Memory.read rest a

/-- `mem[a] <- b` (R73) in the canonical form: entries in rising order of address, and none that equals
the cell's reset contents. -/
def Memory.write (m : Memory) (a : Nat) (b : Byte) : Memory :=
  match m with
  | [] => if b = Memory.initial a then [] else [(a, b)]
  | (k, c) :: rest =>
    if a < k then
      if b = Memory.initial a then (k, c) :: rest else (a, b) :: (k, c) :: rest
    else if a = k then
      if b = Memory.initial a then rest else (a, b) :: rest
    else (k, c) :: Memory.write rest a b

/-- The canonical form from address `lo` on: addresses at least `lo`, strictly rising and below
`MEM_SIZE`, and no entry equal to the cell's reset contents. -/
def Memory.wfFrom (lo : Nat) : Memory → Bool
  | [] => true
  | (k, b) :: rest =>
    decide (lo ≤ k) && decide (k < memSize) && decide (b ≠ Memory.initial k) && Memory.wfFrom (k + 1) rest

/-- The canonical form (log 15): equal memories are equal lists. -/
def Memory.wf (m : Memory) : Bool := Memory.wfFrom 0 m

/-- The bytes of cells `a .. a + n - 1`, the lowest first. -/
def Memory.readBlock (m : Memory) (a : Nat) : Nat → List Byte
  | 0 => []
  | n + 1 => m.read a :: Memory.readBlock m (a + 1) n

/-- Write a byte sequence to cells `a`, `a + 1`, ... in that order. -/
def Memory.writeBlock (m : Memory) (a : Nat) : List Byte → Memory
  | [] => m
  | b :: bs => Memory.writeBlock (m.write a b) (a + 1) bs

/-- The memory after reset of a machine with the given `FONT` (R80, parameter U19 of
93_implementation_defined.md; log 7). -/
def Memory.ofFont (font : Font) : Memory := Memory.writeBlock [] hardware.glyphBase font.toList

/-- `MemRead(addr, 1)` (R72). -/
def memRead (m : Memory) (a : Nat) : Except FatalError Byte :=
  if a > 0xFFF then .error (.addressFault a) else .ok (m.read a)

/-- `CheckRange(base, count)` for `count >= 1` (43_index_memory.md R204; D6, log 21): the error names the
lowest address out of range. -/
def checkRange (base count : Nat) : Except FatalError Unit :=
  if base + count - 1 > 0xFFF then .error (.addressFault (max base 0x1000)) else .ok ()

/-! ## Registers (10_state.md R31) -/

/-- `V[x]`. -/
def State.getV (s : State) (x : Reg) : Byte := s.V[x]

/-- `V[x] <- b`. -/
def State.setV (s : State) (x : Reg) (b : Byte) : State := { s with V := s.V.set x b }

/-- The register file with registers `0 .. n - 1` loaded from cells `a`, `a + 1`, ... (`n` is at most 16). -/
def loadInto (V : Vector Byte 16) (m : Memory) (a : Nat) : Nat → Vector Byte 16
  | 0 => V
  | n + 1 => (loadInto V m a n).set (n % 16) (m.read (a + n)) (Nat.mod_lt n (by decide))

/-- `V[k] <- MemRead(a + k)` for `k` in `0..x`; the registers above `x` stay (43_index_memory.md R206). -/
def State.loadRegs (s : State) (x : Reg) (a : Nat) : State :=
  { s with V := loadInto s.V s.mem a (x.val + 1) }

/-- `V[0] .. V[x]`, in that order (43_index_memory.md R205). -/
def State.firstRegs (s : State) (x : Reg) : List Byte := s.V.toList.take (x.val + 1)

/-- `wrapI(v)` under either value of `I_WRAP` (43_index_memory.md R207; log 8). -/
def wrapI (p : IWrap) (v : Nat) : Word :=
  match p with
  | .mask12 => BitVec.ofNat 16 (v % 0x1000)
  | .wrap16 => BitVec.ofNat 16 (v % 0x10000)

/-- `I <- v`. -/
def State.setI (s : State) (v : Word) : State := { s with I := v }

/-! ## Program counter (40_step.md R133, R134) -/

/-- `pc <- a + 2`. -/
def State.advance (s : State) : State := { s with pc := s.pc + 2 }

/-- `pc <- a + 4` when the condition holds, else `pc <- a + 2`. -/
def State.skipWhen (s : State) (c : Bool) : State := { s with pc := s.pc + (if c then 4 else 2) }

/-- `pc <- target`. -/
def State.jump (s : State) (target : Word) : State := { s with pc := target }

/-! ## Call stack (10_state.md R42) -/

/-- `stack <- stack ++ [r]`, or StackOverflow when it holds `STACK_DEPTH` entries (41_control.md R153). -/
def State.push (s : State) (r : Word) : Except FatalError State :=
  if hardware.stackDepth ≤ s.stack.length then .error .stackOverflow
  else .ok { s with stack := s.stack ++ [r] }

/-- The top entry and the state without it, or StackUnderflow (41_control.md R151). -/
def State.pop (s : State) : Except FatalError (Word × State) :=
  match s.stack.getLast? with
  | none => .error .stackUnderflow
  | some r => .ok (r, { s with stack := s.stack.dropLast })

/-! ## Display buffer (44_display.md R221, R222) -/

/-- `clear()`: every pixel false. -/
def Display.clear : Display := Vector.replicate 64 (Vector.replicate 32 false)

/-- The pixel at column `x`, row `y`, "wrapped modulo 64 (x) and 32 (y)". -/
def Display.pixel (d : Display) (x y : Nat) : Bool :=
  (d[x % 64]'(Nat.mod_lt x (by decide)))[y % 32]'(Nat.mod_lt y (by decide))

/-- Flip the pixel at column `x`, row `y`, wrapped in the same way. -/
def Display.flip (d : Display) (x y : Nat) : Display :=
  d.set (x % 64)
    ((d[x % 64]'(Nat.mod_lt x (by decide))).set (y % 32) (!d.pixel x y) (Nat.mod_lt y (by decide)))
    (Nat.mod_lt x (by decide))

/-- A blit in progress: the display, and whether a pixel has gone from set to unset. -/
structure Blit where
  disp : Display
  collision : Bool
deriving DecidableEq, Repr

/-- XOR one sprite bit into pixel `(x, y)` (44_display.md R223, the body of its loop). -/
def Blit.bit (b : Blit) (x y : Nat) (on : Bool) : Blit :=
  if on then ⟨b.disp.flip x y, b.collision || b.disp.pixel x y⟩ else b

/-- XOR the columns `c ..` of one sprite row: "bit `7 - c` of row `r` is the pixel at `(x + c, y + r)`"
(R222; PRESUMED by the spec, D10; log 16). `left` counts the columns still to draw. -/
def Blit.columns (b : Blit) (x y : Nat) (row : Byte) (c : Nat) : Nat → Blit
  | 0 => b
  | left + 1 => Blit.columns (b.bit (x + c) y (row.getLsbD (7 - c))) x y row (c + 1) left

/-- XOR the sprite rows, one below the other, at column `x` from row `y` on. -/
def Blit.rows (b : Blit) (x y : Nat) : List Byte → Blit
  | [] => b
  | row :: rest => Blit.rows (b.columns x y row 0 8) x (y + 1) rest

/-- `blit(x, y, spriteRows)` (R221). -/
def Display.blit (d : Display) (x y : Nat) (sprite : List Byte) : Blit :=
  Blit.rows ⟨d, false⟩ x y sprite

/-! ## Ends of a step -/

/-- The batch ends: no further step runs in this tick (60_exceptions.md R282; log 12). -/
def State.endBatch (s : State) : State := { s with batch := 0 }

/-- Taking a fatal error (40_step.md R136, 60_exceptions.md R263 to R265): `run <- Halted`,
`halt_record <- {error, pc: a, word}`, the batch ends, and nothing else is written; `pc` stays `a`. -/
def State.halt (s : State) (e : FatalError) (w : Option Word) : State :=
  { s with run := .halted, haltRecord := some ⟨e, s.pc, w⟩, batch := 0 }

/-- The end of an instruction that may raise a fatal error: its state, or the halt with the
instruction's own word in the record (log 11: the word of a decoded instruction is its encoding). -/
def complete (i : Instr) (s : State) (r : Except FatalError State) : Answer :=
  match r with
  | .ok t => .next t
  | .error e => .next (s.halt e (some (encode i)))

/-- InvalidOpcode (40_step.md R135): append `(a, w)` to `reports`, `pc <- a + 2`, nothing else. -/
def State.report (s : State) (w : Word) : State :=
  { s with reports := s.reports ++ [⟨s.pc, w⟩], pc := s.pc + 2 }

/-- `quit()` (60_exceptions.md R286): `run <- Halted` and nothing else. -/
def State.quit (s : State) : State := { s with run := .halted }

end Sys2Proof.Machine
end

