-- ==== Sys2Proof/Machine/Flags.lean ====
section
/-!
DEFINITION. The values written to `VF` as a flag (spec 10_state.md R35) and the one order in which an
instruction writes its result and its flag (42_alu.md R182).
-/

namespace Sys2Proof.Machine

/-- A flag as the byte `VF` holds. -/
def flagByte (c : Bool) : Byte := if c then 1 else 0

/-- 8xy4: 1 if the unreduced sum is above 255 (42_alu.md R177). -/
def carryFlag (a b : Byte) : Byte := flagByte (decide (a.toNat + b.toNat > 255))

/-- 8xy5, 8xy7: 1 if `a >= b`, that is NOT borrow of `a - b` (42_alu.md R178, R180). -/
def noBorrowFlag (a b : Byte) : Byte := flagByte (decide (a.toNat ≥ b.toNat))

/-- 8xy6: the bit shifted out to the right (42_alu.md R179). -/
def lowBitFlag (a : Byte) : Byte := flagByte (a.getLsbD 0)

/-- 8xyE: the bit shifted out to the left (42_alu.md R181). -/
def highBitFlag (a : Byte) : Byte := flagByte (a.getLsbD 7)

/-- `V[x] <- r`, then `VF <- f`: when `x = F` the flag stays and the result is lost (42_alu.md R182; D9,
log 20). -/
def State.setWithFlag (s : State) (x : Reg) (r f : Byte) : State := (s.setV x r).setV VF f

end Sys2Proof.Machine
end

