-- ==== Sys2Proof/Machine/Operands.lean ====
section
/-!
DEFINITION. The operand forms an instruction reads beyond a plain register or immediate: key indices and
glyph digits, the observed key, decimal digits, sprite rows and the random byte (spec 42_alu.md R183,
43_index_memory.md R202 and R203, 44_display.md R223, 45_keys_timers.md R240 and R244).
-/

namespace Sys2Proof.Machine

/-- A register value used as a key index (`keyIndex`, R240) or a glyph digit (R202): itself up to 0xF;
above, as `OPERAND_RANGE_POLICY` says (D11; log 9). -/
def nibbleOperand (p : OperandRangePolicy) (v : Byte) : Except FatalError (Fin 16) :=
  if h : v.toNat < 16 then .ok ⟨v.toNat, h⟩
  else
    match p with
    | .fault => .error (.operandRange v)
    | .maskLowNibble => .ok ⟨v.toNat % 16, Nat.mod_lt _ (by decide)⟩

/-- `firstKey(keys)`: the lowest-numbered set flag, if some flag is set (R244; D12, log 23). -/
def firstKey (keys : Latch) : Option (Fin 16) := (List.finRange 16).find? fun k => keys[k]

/-- `GLYPH_BASE + 5 * d` (R202; log 7). -/
def glyphAddress (d : Fin 16) : Word := BitVec.ofNat 16 (hardware.glyphBase + glyphBytes * d.val)

/-- The hundreds, tens and ones digits of a byte (R203). -/
def decimalDigits (v : Byte) : List Byte :=
  [BitVec.ofNat 8 (v.toNat / 100), BitVec.ofNat 8 (v.toNat / 10 % 10), BitVec.ofNat 8 (v.toNat % 10)]

/-- `RandomByte()` (R183, 10_state.md R53): the next byte the random source has queued, or a free value;
each execution takes one fresh byte (log 4). -/
def State.takeRandom (s : State) : Byte × State :=
  match s.env.randoms with
  | r :: rest => (r, { s with env := { s.env with randoms := rest, draws := s.env.draws + 1 } })
  | [] => (Config.freeRandom s.env.draws, { s with env := { s.env with draws := s.env.draws + 1 } })

end Sys2Proof.Machine
end

