-- ==== Sys2Proof/Machine/Alu.lean ====
section
/-!
DEFINITION. Register loads, arithmetic, logic, shifts and random (spec 42_alu.md). Every operand is read
from the state at the start of the step (40_step.md R132).
-/

namespace Sys2Proof.Machine

/-- LD_IMM (6xkk), R171. -/
def execLdImm (x : Reg) (kk : Byte) (s : State) : Answer := .next (s.setV x kk).advance

/-- ADD_IMM (7xkk), R172: no flag. -/
def execAddImm (x : Reg) (kk : Byte) (s : State) : Answer := .next (s.setV x (s.getV x + kk)).advance

/-- LD_REG (8xy0), R173. -/
def execLdReg (x y : Reg) (s : State) : Answer := .next (s.setV x (s.getV y)).advance

/-- OR (8xy1), R174. -/
def execOr (x y : Reg) (s : State) : Answer :=
  .next (s.setWithFlag x (s.getV x ||| s.getV y) 0).advance

/-- AND (8xy2), R175. -/
def execAnd (x y : Reg) (s : State) : Answer :=
  .next (s.setWithFlag x (s.getV x &&& s.getV y) 0).advance

/-- XOR (8xy3), R176. -/
def execXor (x y : Reg) (s : State) : Answer :=
  .next (s.setWithFlag x (s.getV x ^^^ s.getV y) 0).advance

/-- ADD_REG (8xy4), R177. -/
def execAddReg (x y : Reg) (s : State) : Answer :=
  .next (s.setWithFlag x (s.getV x + s.getV y) (carryFlag (s.getV x) (s.getV y))).advance

/-- SUB (8xy5), R178. -/
def execSub (x y : Reg) (s : State) : Answer :=
  .next (s.setWithFlag x (s.getV x - s.getV y) (noBorrowFlag (s.getV x) (s.getV y))).advance

/-- SHR (8xy6), R179: the source is `Vy`. -/
def execShr (x y : Reg) (s : State) : Answer :=
  .next (s.setWithFlag x (s.getV y >>> 1) (lowBitFlag (s.getV y))).advance

/-- SUBN (8xy7), R180. -/
def execSubn (x y : Reg) (s : State) : Answer :=
  .next (s.setWithFlag x (s.getV y - s.getV x) (noBorrowFlag (s.getV y) (s.getV x))).advance

/-- SHL (8xyE), R181: the source is `Vy`. -/
def execShl (x y : Reg) (s : State) : Answer :=
  .next (s.setWithFlag x (s.getV y <<< 1) (highBitFlag (s.getV y))).advance

/-- RND (Cxkk), R183. -/
def execRnd (x : Reg) (kk : Byte) (s : State) : Answer :=
  .next ((s.takeRandom.2.setV x (s.takeRandom.1 &&& kk)).advance)

end Sys2Proof.Machine
end

