-- ==== Sys2Proof/Machine/Control.lean ====
section
/-!
DEFINITION. Control transfer (spec 41_control.md): RET, JP, CALL, the skips and JP_V0.
-/

namespace Sys2Proof.Machine

/-- RET (00EE), R151. -/
def execRet (s : State) : Answer :=
  complete .ret s
    (match s.pop with
     | .error e => .error e
     | .ok (r, t) => .ok (t.jump r))

/-- JP (1nnn), R152. -/
def execJp (nnn : Word) (s : State) : Answer := .next (s.jump nnn)

/-- CALL (2nnn), R153: pushes the address after the call. -/
def execCall (nnn : Word) (s : State) : Answer :=
  complete (.call nnn) s
    (match s.push (s.pc + 2) with
     | .error e => .error e
     | .ok t => .ok (t.jump nnn))

/-- SE_IMM (3xkk), R154. -/
def execSeImm (x : Reg) (kk : Byte) (s : State) : Answer := .next (s.skipWhen (s.getV x == kk))

/-- SNE_IMM (4xkk), R155. -/
def execSneImm (x : Reg) (kk : Byte) (s : State) : Answer := .next (s.skipWhen (s.getV x != kk))

/-- SE_REG (5xy0), R156. -/
def execSeReg (x y : Reg) (s : State) : Answer := .next (s.skipWhen (s.getV x == s.getV y))

/-- SNE_REG (9xy0), R157. -/
def execSneReg (x y : Reg) (s : State) : Answer := .next (s.skipWhen (s.getV x != s.getV y))

/-- JP_V0 (Bnnn), R158: the 16-bit sum, not reduced to 12 bits (D26, log 25). -/
def execJpV0 (nnn : Word) (s : State) : Answer := .next (s.jump (nnn + (s.getV 0).setWidth 16))

end Sys2Proof.Machine
end

