-- ==== Sys2Proof/Machine/Draw.lean ====
section
/-!
DEFINITION. The display instructions (spec 44_display.md).
-/

namespace Sys2Proof.Machine

/-- CLS (00E0), R220: `VF` is not written. -/
def execCls (s : State) : Answer := .next { s with disp := Display.clear }.advance

/-- The effect of a blit on the state: the new display, then `VF <- col ? 1 : 0`, then `pc <- a + 2` (R223). -/
def State.drawn (s : State) (b : Blit) : State :=
  ({ s with disp := b.disp }.setV VF (flagByte b.collision)).advance

/-- DRW (Dxyn), R223: the rows are checked only when there are some, and the coordinates are read before
`VF` is written. -/
def execDrw (x y : Reg) (n : Nat) (s : State) : Answer :=
  complete (.drw x y n) s
    (match (if n ≥ 1 then checkRange s.I.toNat n else .ok ()) with
     | .error e => .error e
     | .ok _ =>
       .ok (s.drawn
         (s.disp.blit (s.getV x).toNat (s.getV y).toNat (s.mem.readBlock s.I.toNat n))))

end Sys2Proof.Machine
end

