-- ==== Sys2Proof/Machine/Index.lean ====
section
/-!
DEFINITION. The `I` register and the memory instructions (spec 43_index_memory.md).
-/

namespace Sys2Proof.Machine

/-- LD_I (Annn), R200. -/
def execLdI (nnn : Word) (s : State) : Answer := .next (s.setI nnn).advance

/-- ADD_I_VX (Fx1E), R201: `VF` is not written (D8, log 20). -/
def execAddIVx (x : Reg) (s : State) : Answer :=
  .next (s.setI (wrapI hardware.iWrap (s.I.toNat + (s.getV x).toNat))).advance

/-- LD_F_VX (Fx29), R202. -/
def execLdFVx (x : Reg) (s : State) : Answer :=
  complete (.ldFVx x) s
    (match nibbleOperand hardware.operandRange (s.getV x) with
     | .error e => .error e
     | .ok d => .ok (s.setI (glyphAddress d)).advance)

/-- LD_B_VX (Fx33), R203: `I` is not changed. -/
def execLdBVx (x : Reg) (s : State) : Answer :=
  complete (.ldBVx x) s
    (match checkRange s.I.toNat 3 with
     | .error e => .error e
     | .ok _ =>
       .ok { s with mem := s.mem.writeBlock s.I.toNat (decimalDigits (s.getV x)) }.advance)

/-- LD_MEM_VX (Fx55), R205. -/
def execLdMemVx (x : Reg) (s : State) : Answer :=
  complete (.ldMemVx x) s
    (match checkRange s.I.toNat (x.val + 1) with
     | .error e => .error e
     | .ok _ =>
       .ok ({ s with mem := s.mem.writeBlock s.I.toNat (s.firstRegs x) }.setI
         (wrapI hardware.iWrap (s.I.toNat + x.val + 1))).advance)

/-- LD_VX_MEM (Fx65), R206. -/
def execLdVxMem (x : Reg) (s : State) : Answer :=
  complete (.ldVxMem x) s
    (match checkRange s.I.toNat (x.val + 1) with
     | .error e => .error e
     | .ok _ =>
       .ok ((s.loadRegs x s.I.toNat).setI
         (wrapI hardware.iWrap (s.I.toNat + x.val + 1))).advance)

end Sys2Proof.Machine
end

