-- ==== Sys2Proof/Machine/KeysTimers.lean ====
section
/-!
DEFINITION. The key and timer instructions (spec 45_keys_timers.md). `keys` is the latch value of the
current tick (10_state.md R52).
-/

namespace Sys2Proof.Machine

/-- SKP (Ex9E), R241. -/
def execSkp (x : Reg) (s : State) : Answer :=
  complete (.skp x) s
    (match nibbleOperand hardware.operandRange (s.getV x) with
     | .error e => .error e
     | .ok k => .ok (s.skipWhen s.keys[k]))

/-- SKNP (ExA1), R242. -/
def execSknp (x : Reg) (s : State) : Answer :=
  complete (.sknp x) s
    (match nibbleOperand hardware.operandRange (s.getV x) with
     | .error e => .error e
     | .ok k => .ok (s.skipWhen (!s.keys[k])))

/-- LD_VX_DT (Fx07), R243. -/
def execLdVxDt (x : Reg) (s : State) : Answer := .next (s.setV x s.DT).advance

/-- LD_VX_K (Fx0A), R245: with no key observed the outcome is Blocked, nothing is written and `pc` stays;
the tick's batch ends (60_exceptions.md R282; log 12). -/
def execLdVxK (x : Reg) (s : State) : Answer :=
  .next
    (match firstKey s.keys with
     | some k => (s.setV x (BitVec.ofNat 8 k.val)).advance
     | none => s.endBatch)

/-- LD_DT_VX (Fx15), R246. -/
def execLdDtVx (x : Reg) (s : State) : Answer := .next { s with DT := s.getV x }.advance

/-- LD_ST_VX (Fx18), R247. -/
def execLdStVx (x : Reg) (s : State) : Answer := .next { s with ST := s.getV x }.advance

end Sys2Proof.Machine
end

