-- ==== Sys2Proof/Machine/Cycle.lean ====
section
/-!
DEFINITION. The fetch-decode-execute step (spec 40_step.md) and the frame tick around it
(60_exceptions.md R271, R280 to R285).
-/

namespace Sys2Proof.Machine

/-! ## One step of the core (40_step.md) -/

/-- `fetch(a)` (R131): two bytes, big-endian; the fault names the lowest address out of range. -/
def fetch (s : State) : Except FatalError Word :=
  match memRead s.mem s.pc.toNat with
  | .error e => .error e
  | .ok hi =>
    match memRead s.mem (s.pc.toNat + 1) with
    | .error e => .error e
    | .ok lo => .ok (wordOfBytes hi lo)

/-- `step(keys, rand)` of R132 with the order of checks of 60_exceptions.md R267: a fetch fault halts with
no word in its record (R131), an invalid word is reported (R135), an instruction is executed. -/
def coreStep (s : State) : Answer :=
  match fetch s with
  | .error e => .next (s.halt e none)
  | .ok w =>
    match decode w with
    | .error _ => .next (s.report w)
    | .ok i => exec i s

/-! ## The frame tick (60_exceptions.md) -/

/-- One timer's decrement: "decrement each nonzero timer by 1", floor zero (R271). -/
def decay (t : Byte) : Byte := if t = 0 then 0 else t - 1

/-- The start of a tick with latch value `keys`: the timers decay and the batch is full (R280); the time
to load a program is over (20_memory.md R86). -/
def State.beginTick (s : State) (keys : Latch) : State :=
  { s with DT := decay s.DT, ST := decay s.ST, keys := keys, batch := hardware.batch, loadOpen := false }

/-- The latch value of the next tick: the next one the host has queued, or a free value (10_state.md
R52; log 3). -/
def State.takeLatch (s : State) : Latch × State :=
  match s.env.latches with
  | k :: rest => (k, { s with env := { s.env with latches := rest, ticks := s.env.ticks + 1 } })
  | [] => (Config.freeLatch s.env.ticks, { s with env := { s.env with ticks := s.env.ticks + 1 } })

/-- Begin the next tick with the host's latch value for it. -/
def State.enterTick (s : State) : State := s.takeLatch.2.beginTick s.takeLatch.1

/-- One turn of the batch loop of R280: at the end bound the batch ends (R283; log 14), else one step is
taken. -/
def batchTurn (s : State) : Answer :=
  if 0x1000 ≤ s.pc.toNat then .next s.endBatch
  else coreStep { s with batch := s.batch - 1 }

/-- One step of the machine (log 2): in Halted nothing happens (R285; log 13); between ticks the next
tick begins first; then one turn of the batch loop. -/
def cycle (s : State) : Answer :=
  match s.run with
  | .halted => .next s
  | .running => batchTurn (if s.batch = 0 then s.enterTick else s)

/-- The rest of a batch, at most `n` turns: it stops when the batch has ended (R282). -/
def runBatch : Nat → State → Answer
  | 0, s => .next s
  | n + 1, s =>
    match batchTurn s with
    | .next t => if t.batch = 0 then .next t else runBatch n t
    | .fault f => .fault f
    | .refused r => .refused r

/-! ## Placing an instruction where the next step fetches it -/

/-- The state's `pc` where a word can be fetched from it, else the entry point (log 1). -/
def State.fetchPc (s : State) : Word := if s.pc.toNat + 1 < memSize then s.pc else 0x0200

/-- Store the word `w` where the next step fetches, in a machine that runs (log 1). -/
def State.placeWord (s : State) (w : Word) : State :=
  let t := { s with pc := s.fetchPc, mem := s.mem.writeBlock s.fetchPc.toNat [highByte w, lowByte w] }
  match s.run with
  | .running => t
  | .halted => { t with run := .running, haltRecord := none }

end Sys2Proof.Machine
end

