-- ==== Sys2Proof/Machine/Step.lean ====
section
/-!
DEFINITION. One step of the machine, and where the next step fetches its instruction.
-/

namespace Sys2Proof.Machine

/-- One step (`cycle`, Machine/Cycle.lean): spec 40_step.md R132 inside the tick of 60_exceptions.md R280. -/
def step (s : State) : Host.Outcome State Fault Refusal := cycle s

/-- The state with an instruction of the opcode table stored where the next step fetches (log 1). -/
def State.withFetchWord (s : State) (nbits w : Nat) : State := s.placeWord (tableWord nbits w)

end Sys2Proof.Machine
end

