-- ==== Sys2Proof/Machine/External.lean ====
section
/-!
DEFINITION. The interface of the block: the host's actions and the core's outputs (spec 10_state.md R51 to
R57, 20_memory.md R84 to R86, 60_exceptions.md R280, R286 and R287, 70_reset_and_hazards.md R300).
-/

namespace Sys2Proof.Machine

/-- The host's moves; "A model gives the host no move the table does not list" (R287). -/
inductive HostAction where
  /-- `tick(keys, rand)`. -/
  | tick (keys : Latch) (rand : List Byte)
  /-- `load(bytes)`. -/
  | load (bytes : List Byte)
  /-- `quit()`. -/
  | quit
  /-- `reset()`. -/
  | reset
deriving DecidableEq, Repr

/-- Queue one tick's inputs: its latch value is the next one taken, its random bytes come after those
still queued (log 27). -/
def State.supply (s : State) (keys : Latch) (rand : List Byte) : State :=
  { s with env := { s.env with latches := keys :: s.env.latches, randoms := s.env.randoms ++ rand } }

/-- `tick(keys, rand)` (R280): nothing in Halted (R285), else the timers and then the batch. DESIGN CHOICE: a
tick in Halted has no effect at all, so it does not count as "the first tick" of 20_memory.md R86 either, and
leaves the place for the load as it was (log 17). -/
def tick (keys : Latch) (rand : List Byte) (s : State) : Answer :=
  match s.run with
  | .halted => .next s
  | .running => runBatch hardware.batch (s.supply keys rand).enterTick

/-- `load(bytes)` (20_memory.md R84 to R86): refused unless it is the one load after reset and before the
first tick (log 17); RomTooLarge leaves the machine unmodified. -/
def load (bytes : List Byte) (s : State) : Answer :=
  if s.loadOpen then
    if bytes.length > maxProgram then .fault .romTooLarge
    else .next { s with mem := s.mem.writeBlock programBase bytes, loadOpen := false }
  else .refused .loadOutOfTurn

/-- The parameters a reset takes: `RESET_REGS` and `FONT` (00_scope.md R7; U8 and U19 of
93_implementation_defined.md). -/
structure ResetParams where
  regs : ResetRegs
  font : Font
deriving DecidableEq, Repr

/-- The values this hardware takes: 0 (D1, log 5) and the table of 20_memory.md R80 (D13, log 7). -/
def ResetParams.default : ResetParams := ⟨ResetRegs.zero, hardware.font⟩

/-- The machine right after reset, for any value of the two parameters (10_state.md R60, 20_memory.md R80). -/
def State.resetFor (p : ResetParams) : State := State.resetWith p.regs (Memory.ofFont p.font)

/-- `reset()` (70_reset_and_hazards.md R300): the reset state; what the outside world has queued, and the
counters of its free inputs, are not the machine's and go on (log 18). -/
def State.resetAction (p : ResetParams) (s : State) : State := { State.resetFor p with env := s.env }

/-- A host action on a machine with the given reset parameters: it lands between ticks only (R287; log 18). -/
def actWith (p : ResetParams) (a : HostAction) (s : State) : Answer :=
  if s.batch ≠ 0 then .refused .midTick
  else
    match a with
    | .tick keys rand => tick keys rand s
    | .load bytes => load bytes s
    | .quit => .next s.quit
    | .reset => .next (s.resetAction p)

/-- A host action on this hardware. -/
def act (a : HostAction) (s : State) : Answer := actWith ResetParams.default a s

/-- What the host may read (10_state.md R54 to R56): nothing else of the state. -/
structure Outputs where
  display : Display
  halted : Bool
  haltRecord : Option HaltRecord
  reports : List Report
  soundTimer : Byte
deriving DecidableEq, Repr

/-- The host reads the outputs: "only between ticks", because "no instruction execution may be observed
mid-tick by an external reader" (20_memory.md R89, 10_state.md R54 to R56; log 18). -/
def observe (s : State) : Host.Outcome Outputs Fault Refusal :=
  if s.batch ≠ 0 then .refused .midTick
  else
    .next
      { display := s.disp
        halted := decide (s.run = .halted)
        haltRecord := s.haltRecord
        reports := s.reports
        soundTimer := s.ST }

/-- The label of an error kind (60_exceptions.md R260, D32): visible to no program. -/
def FatalError.code : FatalError → Nat
  | .addressFault _ => 1
  | .stackOverflow => 2
  | .stackUnderflow => 3
  | .operandRange _ => 4

end Sys2Proof.Machine
end

