-- ==== Sys2Proof/Safety.lean ====
section
/-!
DEFINITION. What counts as a sound state and a safe run, and the words in which statements say what an
instruction leaves unchanged.
-/

namespace Sys2Proof.Machine

/-- What holds of every state the machine can be in: memory in its canonical form, `I` within memory
(10_state.md R37), `pc` at most 0x10FE (R41), at most `STACK_DEPTH` return addresses, each at most 0x1000
(R41, R42), a halt record only in Halted (R49), and a batch only while Running, of at most `BATCH` steps
(60_exceptions.md R280). -/
structure State.Inv (s : State) : Prop where
  mem_wf : s.mem.wf = true
  index_le : s.I.toNat ≤ 0xFFF
  pc_le : s.pc.toNat ≤ 0x10FE
  stack_le : s.stack.length ≤ hardware.stackDepth
  returns_le : ∀ r ∈ s.stack, r.toNat ≤ 0x1000
  record_halted : s.haltRecord ≠ none → s.run = .halted
  halted_idle : s.run = .halted → s.batch = 0
  batch_le : s.batch ≤ hardware.batch

/-- The fields of the state, by name. -/
inductive Field where
  | V | I | pc | stack | DT | ST | mem | disp | run | haltRecord | reports | keys | batch | loadOpen | env
deriving DecidableEq, Repr

/-- Two states agree in one field; for memory, in every byte read. -/
def Field.Same (f : Field) (s t : State) : Prop :=
  match f with
  | .V => t.V = s.V
  | .I => t.I = s.I
  | .pc => t.pc = s.pc
  | .stack => t.stack = s.stack
  | .DT => t.DT = s.DT
  | .ST => t.ST = s.ST
  | .mem => ∀ a, t.mem.read a = s.mem.read a
  | .disp => t.disp = s.disp
  | .run => t.run = s.run
  | .haltRecord => t.haltRecord = s.haltRecord
  | .reports => t.reports = s.reports
  | .keys => t.keys = s.keys
  | .batch => t.batch = s.batch
  | .loadOpen => t.loadOpen = s.loadOpen
  | .env => t.env = s.env

/-- The frame: `t` agrees with `s` in every field not listed. -/
def FrameOutside (changed : List Field) (s t : State) : Prop := ∀ f, f ∉ changed → f.Same s t

/-- A state whose past holds no fatal error (10_state.md R49) and no invalid word (R50). -/
def State.Clean (s : State) : Prop := s.haltRecord = none ∧ s.reports = []

/-- The first `k` steps from `s` all answer a next state and leave it clean. -/
def SafeRun (k : Nat) (s : State) : Prop :=
  ∀ j ≤ k, ∃ t, Host.Core.run Sys2Proof.core j s = .next t ∧ t.Clean

end Sys2Proof.Machine
end

