-- ==== Sys2Proof/Certificates/Slice0/Obligations.lean ====
section
/-!
DEFINITION. The statements for the provers, from the numbered rules of spec/. Where a statement rests on a
decision the spec marks as its own (D<n> of 92_eei_decisions.md) or on a log entry, its docstring says so.
-/

namespace Sys2Proof.Machine

/-! ## Words of the formats of R104, written as fields side by side -/

/-- `op:4 nnn:12`. -/
def formatNNN (op : BitVec 4) (nnn : BitVec 12) : Word := op ++ nnn

/-- `op:4 x:4 kk:8`. -/
def formatXKK (op : BitVec 4) (x : Reg) (kk : Byte) : Word := (op ++ (BitVec.ofFin x : BitVec 4)) ++ kk

/-- `op:4 x:4 y:4 n:4`. -/
def formatXYN (op : BitVec 4) (x y : Reg) (n : BitVec 4) : Word :=
  ((op ++ (BitVec.ofFin x : BitVec 4)) ++ (BitVec.ofFin y : BitVec 4)) ++ n

/-- `zext_16(nnn)` (R103). -/
def zext (nnn : BitVec 12) : Word := nnn.setWidth 16

/-- The word decodes to the instruction and is its encoding. -/
def Spells (w : Word) (i : Instr) : Prop := decode w = .ok i ∧ encode i = w

/-! ## What may change a register (10_state.md R34, R35) -/

/-- The instruction names `r` as its result register, or writes `VF = r` as a flag, or loads `r` from
memory. -/
def MayWrite (i : Instr) (r : Reg) : Prop :=
  match i with
  | .ldImm x _ | .addImm x _ | .ldReg x _ | .rnd x _ | .ldVxDt x | .ldVxK x => r = x
  | .or x _ | .and x _ | .xor x _ | .addReg x _ | .sub x _ | .shr x _ | .subn x _ | .shl x _ =>
    r = x ∨ r = VF
  | .drw _ _ _ => r = VF
  | .ldVxMem x => r ≤ x
  | .cls | .ret | .jp _ | .call _ | .seImm _ _ | .sneImm _ _ | .seReg _ _ | .sneReg _ _ => False
  | .ldI _ | .jpV0 _ | .skp _ | .sknp _ | .ldDtVx _ | .ldStVx _ | .addIVx _ | .ldFVx _ => False
  | .ldBVx _ | .ldMemVx _ => False

/-- The instruction reads the input latch (40_step.md R139). -/
def ReadsLatch (i : Instr) : Prop :=
  (∃ x, i = .skp x) ∨ (∃ x, i = .sknp x) ∨ ∃ x, i = .ldVxK x

/-! ## Sprites (44_display.md R222, R223) -/

/-- The sprite of `n` bytes at address `a`, drawn at column `x0` and row `y0` with wrapped coordinates,
has a 1 at the pixel of column `px < 64` and row `py < 32`: the pixel lies `c < 8` columns right of and
`r < n` rows below the origin, and bit `7 - c` of byte `a + r` is 1. -/
def SpriteCovers (m : Memory) (a n x0 y0 px py : Nat) : Prop :=
  ∃ r c, r < n ∧ c < 8 ∧ (x0 + c) % 64 = px ∧ (y0 + r) % 32 = py ∧ (m.read (a + r)).getLsbD (7 - c) = true

/-- The halt every fatal error of an instruction ends in (60_exceptions.md R263 to R265). -/
def HaltsWith (i : Instr) (s : State) (e : FatalError) : Prop :=
  ∃ t, exec i s = .next t ∧ t.run = .halted ∧
    t.haltRecord = some ⟨e, s.pc, some (encode i)⟩ ∧ FrameOutside [.run, .haltRecord, .batch] s t

/-- The state in which a step of the machine executes its instruction: the next tick has begun if the
last one was over, and one step of the batch is used up (log 2). -/
def State.atTurn (s : State) : State :=
  { (if s.batch = 0 then s.enterTick else s) with
    batch := (if s.batch = 0 then hardware.batch else s.batch) - 1 }

end Sys2Proof.Machine

open Sys2Proof Sys2Proof.Machine

/-! ## Reset and invariants -/

/-- R60, 70_reset_and_hazards.md R300: the machine after reset. The zeros of `V`, `I`, `DT`, `ST` and the
empty stack are the spec's decision D1 (log 5) and the glyph bytes and their place its decision D13 (log 7); the last clause says what a
reset leaves for any `RESET_REGS` and any `FONT`. -/
def Obligations.ResetStateIsTheTable : Prop :=
  let s := State.reset
  (∀ r, s.getV r = 0) ∧ s.I = 0 ∧ s.pc = 0x200 ∧ s.stack = [] ∧ s.DT = 0 ∧ s.ST = 0 ∧
  s.mem.readBlock 0x000 10 = [0xF0, 0x90, 0x90, 0x90, 0xF0, 0x20, 0x60, 0x20, 0x20, 0x70] ∧
  s.mem.readBlock 0x00A 10 = [0xF0, 0x10, 0xF0, 0x80, 0xF0, 0xF0, 0x10, 0xF0, 0x10, 0xF0] ∧
  s.mem.readBlock 0x014 10 = [0x90, 0x90, 0xF0, 0x10, 0x10, 0xF0, 0x80, 0xF0, 0x10, 0xF0] ∧
  s.mem.readBlock 0x01E 10 = [0xF0, 0x80, 0xF0, 0x90, 0xF0, 0xF0, 0x10, 0x20, 0x40, 0x40] ∧
  s.mem.readBlock 0x028 10 = [0xF0, 0x90, 0xF0, 0x90, 0xF0, 0xF0, 0x90, 0xF0, 0x10, 0xF0] ∧
  s.mem.readBlock 0x032 10 = [0xF0, 0x90, 0xF0, 0x90, 0x90, 0xE0, 0x90, 0xE0, 0x90, 0xE0] ∧
  s.mem.readBlock 0x03C 10 = [0xF0, 0x80, 0x80, 0x80, 0xF0, 0xE0, 0x90, 0x90, 0x90, 0xE0] ∧
  s.mem.readBlock 0x046 10 = [0xF0, 0x80, 0xF0, 0x80, 0xF0, 0xF0, 0x80, 0xF0, 0x80, 0x80] ∧
  (∀ a, 0x050 ≤ a → a ≤ 0xFFF → s.mem.read a = 0) ∧
  (∀ x y, s.disp.pixel x y = false) ∧ s.run = .running ∧ s.haltRecord = none ∧ s.reports = [] ∧
  State.resetFor ResetParams.default = State.reset ∧
  ∀ p : ResetParams,
    let t := State.resetFor p
    t.V = p.regs.V ∧ t.I = p.regs.I ∧ t.DT = p.regs.DT ∧ t.ST = p.regs.ST ∧
    (∀ k : Fin 80, t.mem.read k.val = p.font[k]) ∧
    (∀ a, 0x050 ≤ a → a ≤ 0xFFF → t.mem.read a = 0) ∧ FrameOutside [.V, .I, .DT, .ST, .mem] State.reset t

/-- The invariant holds right after reset, for this hardware's parameters and for any `FONT` and any
`RESET_REGS` with `I` at most 0xFFF. -/
def Obligations.ResetSatisfiesInvariant : Prop :=
  State.reset.Inv ∧ ∀ p : ResetParams, p.regs.I.toNat ≤ 0xFFF → (State.resetFor p).Inv

/-- Every step of the machine keeps the invariant: memory stays canonical, `I <= 0xFFF` (R37), `pc` and
the return addresses stay in the range of R41, the stack stays within its depth (R42), a halt record means
Halted (R49), and Halted means no batch. -/
def Obligations.StepKeepsInvariant : Prop :=
  ∀ s t, s.Inv → step s = .next t → t.Inv

/-- Every action of the host that is accepted keeps the invariant (R287), for any `FONT` and any `RESET_REGS`
with `I` at most 0xFFF. -/
def Obligations.HostActionsKeepInvariant : Prop :=
  ∀ p a s t, p.regs.I.toNat ≤ 0xFFF → s.Inv → actWith p a s = .next t → t.Inv

/-! ## The step and the tick -/

/-- R132 inside R280: while Running and below the end bound, a step of the machine runs the instruction
that the two bytes at `pc` decode to, in the state at its turn (log 2). -/
def Obligations.StepRunsDecodedInstruction : Prop :=
  ∀ s i, s.run = .running → s.pc.toNat < 0xFFF →
    decode (wordOfBytes (s.mem.read s.pc.toNat) (s.mem.read (s.pc.toNat + 1))) = .ok i →
    step s = exec i s.atTurn ∧ FrameOutside [.DT, .ST, .keys, .batch, .loadOpen, .env] s s.atTurn ∧
    (s.batch ≠ 0 → FrameOutside [.batch] s s.atTurn ∧ s.atTurn.batch = s.batch - 1)

/-- R76: "The byte at `pc` is bits 15..8 of the word and the byte at `pc + 1` is bits 7..0." -/
def Obligations.FetchReadsBigEndian : Prop :=
  ∀ s, s.pc.toNat < 0xFFF → ∃ w, fetch s = .ok w ∧
    w.extractLsb 15 8 = s.mem.read s.pc.toNat ∧ w.extractLsb 7 0 = s.mem.read (s.pc.toNat + 1)

/-- R131: a fetch fault halts with no word in the record, at the lowest address out of range (D6), and
changes nothing else (log 11, log 21). -/
def Obligations.FetchFaultHalts : Prop :=
  (∀ s, 0xFFF ≤ s.pc.toNat → ∃ t, coreStep s = .next t ∧ t.run = .halted ∧
    t.haltRecord = some ⟨.addressFault (max s.pc.toNat 0x1000), s.pc, none⟩ ∧
    FrameOutside [.run, .haltRecord, .batch] s t) ∧
  (∀ s, s.run = .running → s.pc.toNat = 0xFFF → step s = coreStep s.atTurn)

/-- R135: an invalid word is reported, `pc` advances by 2, "No other state changes", and the batch
goes on. -/
def Obligations.InvalidWordIsReported : Prop :=
  ∀ s w r, fetch s = .ok w → decode w = .error r →
    (∃ t, coreStep s = .next t ∧ t.reports = s.reports ++ [⟨s.pc, w⟩] ∧ t.pc = s.pc + 2 ∧
      FrameOutside [.reports, .pc] s t) ∧
    (s.run = .running → step s = coreStep s.atTurn)

/-- R283 (decision D16, log 14): at the end bound no step is taken in this tick or any later one; the
machine stays Running, the timers keep decrementing (once a tick), no error is raised; inside a tick only the
batch changes. -/
def Obligations.EndBoundTakesNoStep : Prop :=
  ∀ s, s.run = .running → 0x1000 ≤ s.pc.toNat → ∃ t, step s = .next t ∧ t.batch = 0 ∧
    t.DT.toNat = (if s.batch = 0 then s.DT.toNat - 1 else s.DT.toNat) ∧
    t.ST.toNat = (if s.batch = 0 then s.ST.toNat - 1 else s.ST.toNat) ∧
    FrameOutside [.DT, .ST, .keys, .batch, .loadOpen, .env] s t ∧
    (s.batch ≠ 0 → FrameOutside [.batch] s t)

/-- R285 and R269 (decision D17, log 13): in Halted neither a step nor a tick changes anything, for ever. -/
def Obligations.HaltedMachineStaysPut : Prop :=
  ∀ s, s.run = .halted →
    (∀ k, Host.Core.run Sys2Proof.core k s = .next s) ∧ (∀ keys rand, tick keys rand s = .next s)

/-- R271, R280, R281, R52: a step between ticks of a running machine (batch 0, log 2) first begins the tick.
That takes 1 from each nonzero timer, fills the batch of 8, takes the latch value the host has queued (log 3)
and uses it up, closes the place for a load (log 17) and changes nothing else; a tick's random bytes come after
those still queued (log 27). The instruction then executes on the timers and the latch value as the tick's
start left them, and a step inside a tick executes its instruction on the timers and the latch value as they
are. -/
def Obligations.TickDecaysTimersOnce : Prop :=
  ∀ s : State, s.enterTick.DT.toNat = s.DT.toNat - 1 ∧ s.enterTick.ST.toNat = s.ST.toNat - 1 ∧
    s.enterTick.batch = 8 ∧ s.enterTick.loadOpen = false ∧
    FrameOutside [.DT, .ST, .keys, .batch, .loadOpen, .env] s s.enterTick ∧
    (∀ k rest, s.env.latches = k :: rest → s.enterTick.keys = k ∧ s.enterTick.env.latches = rest) ∧
    (s.env.latches = [] → s.enterTick.env.latches = []) ∧
    s.enterTick.env.randoms = s.env.randoms ∧
    (∀ keys rand,
      let t := (s.supply keys rand).enterTick
      t.keys = keys ∧ t.env.latches = s.env.latches ∧ t.env.randoms = s.env.randoms ++ rand) ∧
    (s.run = .running → s.batch = 0 → step s = batchTurn s.enterTick) ∧
    (s.run = .running → s.batch ≠ 0 → step s = batchTurn s) ∧
    (∀ i, s.run = .running → s.pc.toNat < 0xFFF →
      decode (wordOfBytes (s.mem.read s.pc.toNat) (s.mem.read (s.pc.toNat + 1))) = .ok i →
      (s.batch = 0 → step s = exec i { s.enterTick with batch := 7 }) ∧
      (s.batch ≠ 0 → step s = exec i { s with batch := s.batch - 1 }))

/-- R280 to R282: a whole tick is at least one and at most eight steps of the machine, with the tick's
latch value and random bytes queued, and it ends between ticks with that latch value still in place (log 2,
log 27). It is all eight, unless the machine has halted, has reached the end bound, or stands at an Fx0A that
observes no key. -/
def Obligations.TickIsAtMostEightSteps : Prop :=
  ∀ s keys rand, s.run = .running → s.batch = 0 →
    ∃ n t, 1 ≤ n ∧ n ≤ 8 ∧ tick keys rand s = .next t ∧ t.batch = 0 ∧ t.keys = keys ∧
      Host.Core.run Sys2Proof.core n (s.supply keys rand) = .next t ∧
      (n = 8 ∨ t.run = .halted ∨ 0x1000 ≤ t.pc.toNat ∨
        ∃ w x, fetch t = .ok w ∧ decode w = .ok (.ldVxK x) ∧ ∀ k : Fin 16, t.keys[k] = false)

/-- No step of the machine, from any state, ends in a fault or a refusal: every fatal error of R260 is a
next state (log 11). -/
def Obligations.StepAlwaysAnswersNext : Prop := ∀ s, ∃ t, step s = .next t

/-! ## Fatal errors, blocking and inputs -/

/-- R264 (decision D5, log 21): an instruction that halts the machine writes no register, no memory cell,
no pixel, no stack entry, no timer and not `pc`; the record names it and its address (R265, D27). -/
def Obligations.FatalErrorIsPrecise : Prop :=
  ∀ i s t, s.run = .running → exec i s = .next t → t.run = .halted →
    (∃ e, t.haltRecord = some ⟨e, s.pc, some (encode i)⟩) ∧
    FrameOutside [.run, .haltRecord, .batch] s t

/-- R260, the columns "when" and "raised by" (D11, D14; log 9, log 10): which instruction raises which
fatal error, and only when. -/
def Obligations.FatalErrorsOnlyWhereListed : Prop :=
  ∀ i s t e p w, s.haltRecord = none → exec i s = .next t → t.haltRecord = some ⟨e, p, w⟩ →
    match e with
    | .addressFault a => a = max s.I.toNat 0x1000 ∧
        ((∃ x y n, i = .drw x y n ∧ 1 ≤ n ∧ s.I.toNat + n > 0x1000) ∨
         (∃ x, i = .ldBVx x ∧ s.I.toNat + 3 > 0x1000) ∨
         (∃ x : Reg, i = .ldMemVx x ∧ s.I.toNat + x.val + 1 > 0x1000) ∨
         (∃ x : Reg, i = .ldVxMem x ∧ s.I.toNat + x.val + 1 > 0x1000))
    | .stackOverflow => (∃ nnn, i = .call nnn) ∧ 16 ≤ s.stack.length
    | .stackUnderflow => i = .ret ∧ s.stack = []
    | .operandRange v => 0xF < v.toNat ∧
        ∃ x, (i = .skp x ∨ i = .sknp x ∨ i = .ldFVx x) ∧ v = s.getV x

/-- R137: "Only Fx0A blocks. A `Blocked` step writes nothing, `pc` stays `a`, and the tick's batch ends":
an instruction that ends the batch without halting is Fx0A and changes nothing else (log 12). -/
def Obligations.OnlyKeyWaitBlocks : Prop :=
  ∀ i s t, exec i s = .next t → t.run = .running → t.batch ≠ s.batch →
    (∃ x, i = .ldVxK x) ∧ t.batch = 0 ∧ FrameOutside [.batch] s t

/-- R139: no instruction but Ex9E, ExA1 and Fx0A depends on the input latch. -/
def Obligations.LatchReadOnlyByKeyInstructions : Prop :=
  ∀ i s t keys, ¬ ReadsLatch i → exec i s = .next t →
    exec i { s with keys := keys } = .next { t with keys := keys }

/-- R139: no instruction but Cxkk depends on the random input, or on any input to come. -/
def Obligations.RandomReadOnlyByRnd : Prop :=
  ∀ i s t env, (¬ ∃ x kk, i = .rnd x kk) → exec i s = .next t →
    exec i { s with env := env } = .next { t with env := env }

/-- R34, R35: a general register changes only under an instruction that names it as its result, writes it
as the flag `VF`, or loads it from memory. -/
def Obligations.RegistersChangedOnlyByTheirWriters : Prop :=
  ∀ i s t r, exec i s = .next t → t.getV r ≠ s.getV r → MayWrite i r

/-- R79: memory changes only under Fx33, in the three cells from `I` on, and under Fx55, in the `x + 1`
cells from `I` on. -/
def Obligations.MemoryChangedOnlyByStores : Prop :=
  ∀ i s t a, s.mem.wf = true → exec i s = .next t → t.mem.read a ≠ s.mem.read a →
    (∃ x, i = .ldBVx x ∧ s.I.toNat ≤ a ∧ a ≤ s.I.toNat + 2) ∨
    (∃ x : Reg, i = .ldMemVx x ∧ s.I.toNat ≤ a ∧ a ≤ s.I.toNat + x.val)

/-- R36, R42, R44, R46, R50, R52, R53: which instructions write `I`, the stack, the timers and the
display; none writes the reports, the latch or the place for a load, and only Cxkk takes an input. -/
def Obligations.StateChangedOnlyByItsWriters : Prop :=
  ∀ i s t, exec i s = .next t →
    (t.I ≠ s.I → (∃ nnn, i = .ldI nnn) ∨
      ∃ x, i = .addIVx x ∨ i = .ldFVx x ∨ i = .ldMemVx x ∨ i = .ldVxMem x) ∧
    (t.stack ≠ s.stack → i = .ret ∨ ∃ nnn, i = .call nnn) ∧
    (t.DT ≠ s.DT → ∃ x, i = .ldDtVx x) ∧ (t.ST ≠ s.ST → ∃ x, i = .ldStVx x) ∧
    (t.disp ≠ s.disp → i = .cls ∨ ∃ x y n, i = .drw x y n) ∧
    (t.env ≠ s.env → ∃ x kk, i = .rnd x kk) ∧
    t.reports = s.reports ∧ t.keys = s.keys ∧ t.loadOpen = s.loadOpen

/-- R50, R262: a step appends at most one report, and only for an invalid word fetched at `pc`. -/
def Obligations.ReportsOnlyGrowByInvalidWords : Prop :=
  ∀ s t, step s = .next t → t.reports = s.reports ∨
    ∃ w r, fetch s = .ok w ∧ decode w = .error r ∧ t.reports = s.reports ++ [⟨s.pc, w⟩]

/-! ## Encoding -/

/-- Decode and encode agree: the word of a well-formed instruction decodes to that instruction, with every
operand at every value its field admits (R103 to R106). -/
def Obligations.DecodeOfEncode : Prop := ∀ i : Instr, i.WellFormed = true → decode (encode i) = .ok i

/-- The other direction: a word that decodes is the encoding of what it decodes to, which is well-formed;
so no two words are one instruction (R105, R106). -/
def Obligations.EncodeOfDecode : Prop :=
  ∀ w i, decode w = .ok i → encode i = w ∧ i.WellFormed = true

/-- R105, R107: a word is an instruction exactly when it matches a row of the opcode map, every other word
is InvalidOpcode, and no word matches two rows. -/
def Obligations.OpcodeMapDecidesDecoding : Prop :=
  ∀ w : Word,
    ((∃ i, decode w = .ok i) ↔ ∃ r ∈ opcodeTable, r.Matches w = true) ∧
    (decode w = .error (.invalidOpcode w) ↔ ∀ r ∈ opcodeTable, r.Matches w = false) ∧
    (∀ r ∈ opcodeTable, ∀ r' ∈ opcodeTable, r.Matches w = true → r'.Matches w = true → r = r')

/-- A few words written out from the patterns of R105, and three invalid ones (R107; that 5121, 0123 and E09F
are invalid rests on decisions D2 and D3, log 22). -/
def Obligations.SampleWordsDecode : Prop :=
  decode 0x00E0 = .ok .cls ∧ decode 0x1234 = .ok (.jp 0x234) ∧ decode 0x3A42 = .ok (.seImm 0xA 0x42) ∧
  decode 0x8126 = .ok (.shr 1 2) ∧ decode 0xD12F = .ok (.drw 1 2 15) ∧ decode 0xE5A1 = .ok (.sknp 5) ∧
  decode 0xF533 = .ok (.ldBVx 5) ∧ decode 0x5121 = .error (.invalidOpcode 0x5121) ∧
  decode 0x0123 = .error (.invalidOpcode 0x0123) ∧ decode 0xE09F = .error (.invalidOpcode 0xE09F)

/-! ## Control transfer -/

/-- R152: "Set program counter to `nnn`." -/
def Obligations.JumpSetsPc : Prop :=
  ∀ nnn s, Spells (formatNNN 0x1 nnn) (.jp (zext nnn)) ∧
    ∃ t, exec (.jp (zext nnn)) s = .next t ∧ t.pc.toNat = nnn.toNat ∧ FrameOutside [.pc] s t

/-- R158: the target is `nnn + V0`, not reduced to 12 bits (decision D26, log 25). -/
def Obligations.JumpIndexedByV0 : Prop :=
  ∀ nnn s, Spells (formatNNN 0xB nnn) (.jpV0 (zext nnn)) ∧
    ∃ t, exec (.jpV0 (zext nnn)) s = .next t ∧ t.pc.toNat = nnn.toNat + (s.getV 0).toNat ∧
      FrameOutside [.pc] s t

/-- R153: with fewer than 16 entries on the stack (`STACK_DEPTH`, decision D14, log 10), CALL pushes the address
after the call and jumps; with 16 it is StackOverflow, nothing is pushed and `pc` stays. -/
def Obligations.CallPushesReturnAddress : Prop :=
  ∀ nnn s, Spells (formatNNN 0x2 nnn) (.call (zext nnn)) ∧
    (s.stack.length < 16 →
      ∃ t, exec (.call (zext nnn)) s = .next t ∧ t.stack = s.stack ++ [s.pc + 2] ∧
        t.pc.toNat = nnn.toNat ∧ FrameOutside [.pc, .stack] s t) ∧
    (16 ≤ s.stack.length → HaltsWith (.call (zext nnn)) s .stackOverflow)

/-- R151: "Pop return address from call stack into program counter; **StackUnderflow** if empty." -/
def Obligations.ReturnPopsStack : Prop :=
  Spells 0x00EE .ret ∧
  (∀ s rest r, s.stack = rest ++ [r] →
    ∃ t, exec .ret s = .next t ∧ t.pc = r ∧ t.stack = rest ∧ FrameOutside [.pc, .stack] s t) ∧
  (∀ s, s.stack = [] → HaltsWith .ret s .stackUnderflow)

/-- R153 with R151: "`2nnn` then `00EE` restores the program counter to the address immediately following
the original `2nnn` instruction", and the stack, wherever the subroutine's RET stands and whatever else
the subroutine changed. -/
def Obligations.CallThenReturnComesBack : Prop :=
  ∀ nnn s t u v, s.stack.length < 16 → exec (.call nnn) s = .next t →
    u.stack = t.stack → exec .ret u = .next v → v.pc = s.pc + 2 ∧ v.stack = s.stack

/-- R154, R155: "Skip next instruction if `Vx == kk`", "... `Vx != kk`". -/
def Obligations.SkipOnImmediate : Prop :=
  ∀ x kk s,
    (Spells (formatXKK 0x3 x kk) (.seImm x kk) ∧
      ∃ t, exec (.seImm x kk) s = .next t ∧ t.pc = s.pc + (if s.getV x = kk then 4 else 2) ∧
        FrameOutside [.pc] s t) ∧
    (Spells (formatXKK 0x4 x kk) (.sneImm x kk) ∧
      ∃ t, exec (.sneImm x kk) s = .next t ∧ t.pc = s.pc + (if s.getV x ≠ kk then 4 else 2) ∧
        FrameOutside [.pc] s t)

/-- R156, R157: "Skip next instruction if `Vx == Vy`", "... `Vx != Vy`". -/
def Obligations.SkipOnRegisters : Prop :=
  ∀ x y s,
    (Spells (formatXYN 0x5 x y 0x0) (.seReg x y) ∧
      ∃ t, exec (.seReg x y) s = .next t ∧ t.pc = s.pc + (if s.getV x = s.getV y then 4 else 2) ∧
        FrameOutside [.pc] s t) ∧
    (Spells (formatXYN 0x9 x y 0x0) (.sneReg x y) ∧
      ∃ t, exec (.sneReg x y) s = .next t ∧ t.pc = s.pc + (if s.getV x ≠ s.getV y then 4 else 2) ∧
        FrameOutside [.pc] s t)

/-! ## Registers and arithmetic -/

/-- R171: "`Vx := kk`." -/
def Obligations.LoadImmediate : Prop :=
  ∀ x kk s, Spells (formatXKK 0x6 x kk) (.ldImm x kk) ∧
    ∃ t, exec (.ldImm x kk) s = .next t ∧ t.getV x = kk ∧ (∀ r, r ≠ x → t.getV r = s.getV r) ∧
      t.pc = s.pc + 2 ∧ FrameOutside [.V, .pc] s t

/-- R172: "`Vx := Vx + kk` (mod 256, no flag effect)." -/
def Obligations.AddImmediateWraps : Prop :=
  ∀ x kk s, Spells (formatXKK 0x7 x kk) (.addImm x kk) ∧
    ∃ t, exec (.addImm x kk) s = .next t ∧
      (t.getV x).toNat = ((s.getV x).toNat + kk.toNat) % 256 ∧ (∀ r, r ≠ x → t.getV r = s.getV r) ∧
      t.pc = s.pc + 2 ∧ FrameOutside [.V, .pc] s t

/-- R173: "`Vx := Vy`." -/
def Obligations.CopyRegister : Prop :=
  ∀ x y s, Spells (formatXYN 0x8 x y 0x0) (.ldReg x y) ∧
    ∃ t, exec (.ldReg x y) s = .next t ∧ t.getV x = s.getV y ∧ (∀ r, r ≠ x → t.getV r = s.getV r) ∧
      t.pc = s.pc + 2 ∧ FrameOutside [.V, .pc] s t

/-- R174, R175, R176: the logic operations, bit by bit, and "`VF := 0`". The destination `VF` itself is
FlagWinsInVF's. -/
def Obligations.LogicClearsFlag : Prop :=
  ∀ x y s, x ≠ VF →
    (Spells (formatXYN 0x8 x y 0x1) (.or x y) ∧ ∃ t, exec (.or x y) s = .next t ∧
      (∀ b < 8, (t.getV x).getLsbD b = ((s.getV x).getLsbD b || (s.getV y).getLsbD b)) ∧
      t.getV VF = 0 ∧ (∀ r, r ≠ x → r ≠ VF → t.getV r = s.getV r) ∧
      t.pc = s.pc + 2 ∧ FrameOutside [.V, .pc] s t) ∧
    (Spells (formatXYN 0x8 x y 0x2) (.and x y) ∧ ∃ t, exec (.and x y) s = .next t ∧
      (∀ b < 8, (t.getV x).getLsbD b = ((s.getV x).getLsbD b && (s.getV y).getLsbD b)) ∧
      t.getV VF = 0 ∧ (∀ r, r ≠ x → r ≠ VF → t.getV r = s.getV r) ∧
      t.pc = s.pc + 2 ∧ FrameOutside [.V, .pc] s t) ∧
    (Spells (formatXYN 0x8 x y 0x3) (.xor x y) ∧ ∃ t, exec (.xor x y) s = .next t ∧
      (∀ b < 8, (t.getV x).getLsbD b = ((s.getV x).getLsbD b ^^ (s.getV y).getLsbD b)) ∧
      t.getV VF = 0 ∧ (∀ r, r ≠ x → r ≠ VF → t.getV r = s.getV r) ∧
      t.pc = s.pc + 2 ∧ FrameOutside [.V, .pc] s t)

/-- R177: "`Vx := Vx + Vy` (mod 256); `VF := 1` if unmodded sum > 255 else `0`." The destination `VF`
itself is FlagWinsInVF's. -/
def Obligations.AddSetsCarry : Prop :=
  ∀ x y s, x ≠ VF → Spells (formatXYN 0x8 x y 0x4) (.addReg x y) ∧
    ∃ t, exec (.addReg x y) s = .next t ∧
      (t.getV x).toNat = ((s.getV x).toNat + (s.getV y).toNat) % 256 ∧
      t.getV VF = (if (s.getV x).toNat + (s.getV y).toNat > 255 then 1 else 0) ∧
      (∀ r, r ≠ x → r ≠ VF → t.getV r = s.getV r) ∧ t.pc = s.pc + 2 ∧ FrameOutside [.V, .pc] s t

/-- R178, R180: "`Vx := Vx - Vy` (mod 256); `VF := 1` if `Vx >= Vy` (pre-op) else `0`", and reversed. The
destination `VF` itself is FlagWinsInVF's. -/
def Obligations.SubtractSetsNotBorrow : Prop :=
  ∀ x y s, x ≠ VF →
    (Spells (formatXYN 0x8 x y 0x5) (.sub x y) ∧ ∃ t, exec (.sub x y) s = .next t ∧
      (t.getV x).toNat = ((s.getV x).toNat + 256 - (s.getV y).toNat) % 256 ∧
      t.getV VF = (if (s.getV x).toNat ≥ (s.getV y).toNat then 1 else 0) ∧
      (∀ r, r ≠ x → r ≠ VF → t.getV r = s.getV r) ∧ t.pc = s.pc + 2 ∧ FrameOutside [.V, .pc] s t) ∧
    (Spells (formatXYN 0x8 x y 0x7) (.subn x y) ∧ ∃ t, exec (.subn x y) s = .next t ∧
      (t.getV x).toNat = ((s.getV y).toNat + 256 - (s.getV x).toNat) % 256 ∧
      t.getV VF = (if (s.getV y).toNat ≥ (s.getV x).toNat then 1 else 0) ∧
      (∀ r, r ≠ x → r ≠ VF → t.getV r = s.getV r) ∧ t.pc = s.pc + 2 ∧ FrameOutside [.V, .pc] s t)

/-- R179, R181: the shifts take their source from `Vy`; "`VF :=` bit 0 of `Vy` (pre-shift)", "`VF :=` bit
7 of `Vy` (pre-shift)". The destination `VF` itself is FlagWinsInVF's. -/
def Obligations.ShiftTakesVy : Prop :=
  ∀ x y s, x ≠ VF →
    (Spells (formatXYN 0x8 x y 0x6) (.shr x y) ∧ ∃ t, exec (.shr x y) s = .next t ∧
      (t.getV x).toNat = (s.getV y).toNat / 2 ∧ (t.getV VF).toNat = (s.getV y).toNat % 2 ∧
      (∀ r, r ≠ x → r ≠ VF → t.getV r = s.getV r) ∧ t.pc = s.pc + 2 ∧ FrameOutside [.V, .pc] s t) ∧
    (Spells (formatXYN 0x8 x y 0xE) (.shl x y) ∧ ∃ t, exec (.shl x y) s = .next t ∧
      (t.getV x).toNat = (s.getV y).toNat * 2 % 256 ∧ (t.getV VF).toNat = (s.getV y).toNat / 128 ∧
      (∀ r, r ≠ x → r ≠ VF → t.getV r = s.getV r) ∧ t.pc = s.pc + 2 ∧ FrameOutside [.V, .pc] s t)

/-- R182 (decision D9, log 20): when the destination is `VF`, `VF` ends holding the flag, computed from the
values before the instruction, and no other register changes. -/
def Obligations.FlagWinsInVF : Prop :=
  ∀ y s,
    let vf := (s.getV VF).toNat
    let vy := (s.getV y).toNat
    ∀ i f, (i, f) ∈ [(Instr.or VF y, 0), (.and VF y, 0), (.xor VF y, 0),
        (.addReg VF y, if vf + vy > 255 then 1 else 0), (.sub VF y, if vf ≥ vy then 1 else 0),
        (.shr VF y, vy % 2), (.subn VF y, if vy ≥ vf then 1 else 0), (.shl VF y, vy / 128)] →
      ∃ t, exec i s = .next t ∧ (t.getV VF).toNat = f ∧ (∀ r, r ≠ VF → t.getV r = s.getV r) ∧
        t.pc = s.pc + 2 ∧ FrameOutside [.V, .pc] s t

/-- R183 (decision D19, log 4): `Vx` is a random byte ANDed with `kk`; the byte is the next one queued and
is used up, and with none queued it is some byte the statement says nothing about. -/
def Obligations.RandomByteIsMasked : Prop :=
  ∀ x kk s, Spells (formatXKK 0xC x kk) (.rnd x kk) ∧
    ∃ t b, exec (.rnd x kk) s = .next t ∧ t.getV x = b &&& kk ∧
      (∀ b' rest, s.env.randoms = b' :: rest → b = b' ∧ t.env.randoms = rest) ∧
      (s.env.randoms = [] → t.env.randoms = []) ∧ t.env.latches = s.env.latches ∧
      (∀ r, r ≠ x → t.getV r = s.getV r) ∧ t.pc = s.pc + 2 ∧ FrameOutside [.V, .pc, .env] s t

/-! ## The I register and memory -/

/-- R200: "`I := nnn`." -/
def Obligations.LoadIndex : Prop :=
  ∀ nnn s, Spells (formatNNN 0xA nnn) (.ldI (zext nnn)) ∧
    ∃ t, exec (.ldI (zext nnn)) s = .next t ∧ t.I.toNat = nnn.toNat ∧ t.pc = s.pc + 2 ∧
      FrameOutside [.I, .pc] s t

/-- R201 under this hardware's `I_WRAP = Mask12` (decisions D7, D8; log 8, log 20): `I` takes the sum mod
0x1000 and no register, not even `VF`, changes. -/
def Obligations.AddToIndexWraps : Prop :=
  ∀ x s, Spells (formatXKK 0xF x 0x1E) (.addIVx x) ∧
    ∃ t, exec (.addIVx x) s = .next t ∧ t.I.toNat = (s.I.toNat + (s.getV x).toNat) % 0x1000 ∧
      t.pc = s.pc + 2 ∧ FrameOutside [.I, .pc] s t

/-- R202 (decisions D11, D13; log 7, log 9): `I` takes the address of the digit's glyph; a value above
0xF is an OperandRangeFault. -/
def Obligations.GlyphAddressOfDigit : Prop :=
  ∀ x s, Spells (formatXKK 0xF x 0x29) (.ldFVx x) ∧
    ((s.getV x).toNat ≤ 0xF → ∃ t, exec (.ldFVx x) s = .next t ∧ t.I.toNat = 5 * (s.getV x).toNat ∧
      t.pc = s.pc + 2 ∧ FrameOutside [.I, .pc] s t) ∧
    (0xF < (s.getV x).toNat → HaltsWith (.ldFVx x) s (.operandRange (s.getV x)))

/-- R203: "Store hundreds/tens/ones decimal digits of `Vx` into `I, I+1, I+2`"; AddressFault when
`I + 2 > 0xFFF`, and then nothing is written. -/
def Obligations.StoreDecimalDigits : Prop :=
  ∀ x s, s.mem.wf = true → Spells (formatXKK 0xF x 0x33) (.ldBVx x) ∧
    (s.I.toNat + 2 ≤ 0xFFF → ∃ t, exec (.ldBVx x) s = .next t ∧
      (t.mem.read s.I.toNat).toNat = (s.getV x).toNat / 100 ∧
      (t.mem.read (s.I.toNat + 1)).toNat = (s.getV x).toNat / 10 % 10 ∧
      (t.mem.read (s.I.toNat + 2)).toNat = (s.getV x).toNat % 10 ∧
      (∀ a, a < s.I.toNat ∨ s.I.toNat + 2 < a → t.mem.read a = s.mem.read a) ∧
      t.pc = s.pc + 2 ∧ FrameOutside [.mem, .pc] s t) ∧
    (s.I.toNat + 2 > 0xFFF → ∃ a, HaltsWith (.ldBVx x) s (.addressFault a))

/-- R205: "Store `V0..Vx` into memory starting at `I`; advances `I` by `x+1` as a side effect";
AddressFault when `I + x > 0xFFF`, and then nothing is written. -/
def Obligations.StoreRegisters : Prop :=
  ∀ (x : Reg) s, s.mem.wf = true → Spells (formatXKK 0xF x 0x55) (.ldMemVx x) ∧
    (s.I.toNat + x.val ≤ 0xFFF → ∃ t, exec (.ldMemVx x) s = .next t ∧
      (∀ k : Reg, k ≤ x → t.mem.read (s.I.toNat + k.val) = s.getV k) ∧
      (∀ a, a < s.I.toNat ∨ s.I.toNat + x.val < a → t.mem.read a = s.mem.read a) ∧
      t.I = wrapI hardware.iWrap (s.I.toNat + x.val + 1) ∧
      t.pc = s.pc + 2 ∧ FrameOutside [.mem, .I, .pc] s t) ∧
    (s.I.toNat + x.val > 0xFFF → ∃ a, HaltsWith (.ldMemVx x) s (.addressFault a))

/-- R206: "Load `V0..Vx` from memory starting at `I`; advances `I` by `x+1` as a side effect";
AddressFault when `I + x > 0xFFF`, and then nothing is written. -/
def Obligations.LoadRegisters : Prop :=
  ∀ (x : Reg) s, Spells (formatXKK 0xF x 0x65) (.ldVxMem x) ∧
    (s.I.toNat + x.val ≤ 0xFFF → ∃ t, exec (.ldVxMem x) s = .next t ∧
      (∀ k : Reg, k ≤ x → t.getV k = s.mem.read (s.I.toNat + k.val)) ∧
      (∀ k : Reg, x < k → t.getV k = s.getV k) ∧
      t.I = wrapI hardware.iWrap (s.I.toNat + x.val + 1) ∧
      t.pc = s.pc + 2 ∧ FrameOutside [.V, .I, .pc] s t) ∧
    (s.I.toNat + x.val > 0xFFF → ∃ a, HaltsWith (.ldVxMem x) s (.addressFault a))

/-! ## Display -/

/-- R220: "Clear Display Buffer." -/
def Obligations.ClearDisplay : Prop :=
  Spells 0x00E0 .cls ∧ ∀ s, ∃ t, exec .cls s = .next t ∧ (∀ x y, t.disp.pixel x y = false) ∧
    t.pc = s.pc + 2 ∧ FrameOutside [.disp, .pc] s t

/-- R223 with R221 and R222 (the bit order is the spec's decision D10, log 16): DRW flips exactly the
pixels its sprite covers in wrapped coordinates, and `VF` says whether one of them was set. -/
def Obligations.DrawXorsPixels : Prop :=
  ∀ x y (n : BitVec 4) s, Spells (formatXYN 0xD x y n) (.drw x y n.toNat) ∧
    (n.toNat = 0 ∨ s.I.toNat + n.toNat ≤ 0x1000 → ∃ t, exec (.drw x y n.toNat) s = .next t ∧
      (∀ px < 64, ∀ py < 32, t.disp.pixel px py = true ↔
        ¬ (s.disp.pixel px py = true ↔
          SpriteCovers s.mem s.I.toNat n.toNat (s.getV x).toNat (s.getV y).toNat px py)) ∧
      (t.getV VF = 1 ↔ ∃ px < 64, ∃ py < 32, s.disp.pixel px py = true ∧
        SpriteCovers s.mem s.I.toNat n.toNat (s.getV x).toNat (s.getV y).toNat px py) ∧
      (t.getV VF = 0 ∨ t.getV VF = 1) ∧ (∀ r, r ≠ VF → t.getV r = s.getV r) ∧
      t.pc = s.pc + 2 ∧ FrameOutside [.V, .disp, .pc] s t)

/-- R224 as R223 gives it: drawing the same sprite twice at the same place restores the display; the second
draw sets `VF = 1` exactly when some pixel the sprite covers was unset before the first draw, and so, where
none of them was set, "if the sprite has any bit 1". (On a display where every covered pixel is set, R223 gives
the second draw no pixel that goes from set to unset: log 28.) -/
def Obligations.DrawTwiceRestores : Prop :=
  ∀ x y n s t u, x ≠ VF → y ≠ VF → n < 16 → (n = 0 ∨ s.I.toNat + n ≤ 0x1000) →
    exec (.drw x y n) s = .next t → exec (.drw x y n) t = .next u →
    let covers := SpriteCovers s.mem s.I.toNat n (s.getV x).toNat (s.getV y).toNat
    u.disp = s.disp ∧
    (u.getV VF = 1 ↔ ∃ px < 64, ∃ py < 32, s.disp.pixel px py = false ∧ covers px py) ∧
    ((∀ px < 64, ∀ py < 32, covers px py → s.disp.pixel px py = false) →
      (u.getV VF = 1 ↔ ∃ r < n, s.mem.read (s.I.toNat + r) ≠ 0))

/-! ## Keys and timers -/

/-- R241, R242 with R240 (decision D11, log 9): SKP skips when key `Vx` is set, SKNP when it is not; a
value above 0xF is an OperandRangeFault. -/
def Obligations.SkipOnKey : Prop :=
  ∀ x s, Spells (formatXKK 0xE x 0x9E) (.skp x) ∧ Spells (formatXKK 0xE x 0xA1) (.sknp x) ∧
    (∀ k : Fin 16, (s.getV x).toNat = k.val →
      (∃ t, exec (.skp x) s = .next t ∧ t.pc = s.pc + (if s.keys[k] = true then 4 else 2) ∧
        FrameOutside [.pc] s t) ∧
      (∃ t, exec (.sknp x) s = .next t ∧ t.pc = s.pc + (if s.keys[k] = true then 2 else 4) ∧
        FrameOutside [.pc] s t)) ∧
    (0xF < (s.getV x).toNat → HaltsWith (.skp x) s (.operandRange (s.getV x)) ∧
      HaltsWith (.sknp x) s (.operandRange (s.getV x)))

/-- R243: "`Vx :=` delay timer." -/
def Obligations.ReadDelayTimer : Prop :=
  ∀ x s, Spells (formatXKK 0xF x 0x07) (.ldVxDt x) ∧
    ∃ t, exec (.ldVxDt x) s = .next t ∧ t.getV x = s.DT ∧ (∀ r, r ≠ x → t.getV r = s.getV r) ∧
      t.pc = s.pc + 2 ∧ FrameOutside [.V, .pc] s t

/-- R245 with R244 (decision D12, log 23): with a flag set, `Vx` takes the lowest set index; with none,
the step is Blocked: nothing is written, `pc` stays and the tick's batch ends. -/
def Obligations.WaitForKey : Prop :=
  ∀ x s, Spells (formatXKK 0xF x 0x0A) (.ldVxK x) ∧
    (∀ k : Fin 16, s.keys[k] = true → (∀ j : Fin 16, j < k → s.keys[j] = false) →
      ∃ t, exec (.ldVxK x) s = .next t ∧ (t.getV x).toNat = k.val ∧
        (∀ r, r ≠ x → t.getV r = s.getV r) ∧ t.pc = s.pc + 2 ∧ FrameOutside [.V, .pc] s t) ∧
    ((∀ k : Fin 16, s.keys[k] = false) →
      ∃ t, exec (.ldVxK x) s = .next t ∧ t.batch = 0 ∧ FrameOutside [.batch] s t)

/-- R246, R247: "delay timer `:= Vx`", "sound timer `:= Vx`". -/
def Obligations.SetTimers : Prop :=
  ∀ x s,
    (Spells (formatXKK 0xF x 0x15) (.ldDtVx x) ∧ ∃ t, exec (.ldDtVx x) s = .next t ∧
      t.DT = s.getV x ∧ t.pc = s.pc + 2 ∧ FrameOutside [.DT, .pc] s t) ∧
    (Spells (formatXKK 0xF x 0x18) (.ldStVx x) ∧ ∃ t, exec (.ldStVx x) s = .next t ∧
      t.ST = s.getV x ∧ t.pc = s.pc + 2 ∧ FrameOutside [.ST, .pc] s t)

/-! ## Checks and parameters -/

/-- R204 (decision D6, log 21): `CheckRange` passes exactly when every cell of the block exists, and else
names the lowest address of the block that does not. -/
def Obligations.BlockCheckIsExact : Prop :=
  ∀ base count, 1 ≤ count →
    (checkRange base count = .ok () ↔ ∀ a, base ≤ a → a < base + count → a ≤ 0xFFF) ∧
    (∀ e, checkRange base count = .error e → ∃ a, e = .addressFault a ∧ base ≤ a ∧ a < base + count ∧
      0xFFF < a ∧ ∀ b, base ≤ b → b < a → b ≤ 0xFFF)

/-- R75, R204 (decisions D5, D6; log 21): a block that runs beyond 0xFFF halts the machine with the lowest
address out of range in the record, for each of the four instructions that access a block. -/
def Obligations.BlockBeyondMemoryHalts : Prop :=
  ∀ (x y : Reg) n s,
    (1 ≤ n → s.I.toNat + n > 0x1000 → HaltsWith (.drw x y n) s (.addressFault (max s.I.toNat 0x1000))) ∧
    (s.I.toNat + 3 > 0x1000 → HaltsWith (.ldBVx x) s (.addressFault (max s.I.toNat 0x1000))) ∧
    (s.I.toNat + x.val + 1 > 0x1000 → HaltsWith (.ldMemVx x) s (.addressFault (max s.I.toNat 0x1000)) ∧
      HaltsWith (.ldVxMem x) s (.addressFault (max s.I.toNat 0x1000)))

/-- R207 and R240 at both values of `I_WRAP` and `OPERAND_RANGE_POLICY`. -/
def Obligations.ParameterPoliciesReduce : Prop :=
  (∀ v, (wrapI .mask12 v).toNat = v % 0x1000 ∧ (wrapI .wrap16 v).toNat = v % 0x10000) ∧
  (∀ p (v : Byte), v.toNat ≤ 0xF → ∃ k, nibbleOperand p v = .ok k ∧ k.val = v.toNat) ∧
  (∀ v : Byte, 0xF < v.toNat → nibbleOperand .fault v = .error (.operandRange v) ∧
    ∃ k, nibbleOperand .maskLowNibble v = .ok k ∧ k.val = v.toNat % 16)

/-! ## The host's actions -/

/-- R84, R85: the load copies the bytes to 0x200 on and changes no other cell; an image longer than 0xE00
bytes fails with RomTooLarge. The place for the load is log 17. -/
def Obligations.LoadCopiesProgram : Prop :=
  ∀ s bytes, s.mem.wf = true → s.loadOpen = true →
    (bytes.length ≤ 0xE00 → ∃ t, load bytes s = .next t ∧
      (∀ k < bytes.length, t.mem.read (0x200 + k) = bytes.getD k 0) ∧
      (∀ a, a < 0x200 ∨ 0x200 + bytes.length ≤ a → t.mem.read a = s.mem.read a) ∧
      FrameOutside [.mem, .loadOpen] s t) ∧
    (0xE00 < bytes.length → load bytes s = .fault .romTooLarge)

/-- R86, R89, R286, R287, R300 (decisions D18, D23, D28; log 17, log 18): between ticks a quit only halts, a
reset gives the reset state, the host reads the five outputs, and a load that follows a load or the start of a
tick is refused; in the middle of a tick every action and every reading is refused. `p` holds `RESET_REGS` and
`FONT`, which this hardware gives their default values. -/
def Obligations.HostActsBetweenTicks : Prop :=
  (∀ a s, act a s = actWith ResetParams.default a s) ∧
  (∀ p s, s.batch = 0 → ∃ t, actWith p .quit s = .next t ∧ t.run = .halted ∧ FrameOutside [.run] s t) ∧
  (∀ p s, s.batch = 0 →
    ∃ t, actWith p .reset s = .next t ∧ FrameOutside [.env] (State.resetFor p) t ∧ t.env = s.env) ∧
  (∀ p s bytes, s.batch = 0 → s.loadOpen = false → actWith p (.load bytes) s = .refused .loadOutOfTurn) ∧
  (∀ p s t bytes, actWith p (.load bytes) s = .next t → t.loadOpen = false) ∧
  (∀ s : State, s.enterTick.loadOpen = false) ∧
  (∀ s, s.batch = 0 →
    ∃ o, observe s = .next o ∧ o.display = s.disp ∧ (o.halted = true ↔ s.run = .halted) ∧
      o.haltRecord = s.haltRecord ∧ o.reports = s.reports ∧ o.soundTimer = s.ST) ∧
  (∀ p s a, s.batch ≠ 0 → actWith p a s = .refused .midTick ∧ observe s = .refused .midTick)
end

