-- ==== Sys2Proof/Laws/Decode.lean ====
section
/-!
SUPPORT. The fields of the words the encoder builds, as arithmetic: what the round trips rest on.
-/

namespace Sys2Proof

/-! ## Fields as numbers -/

theorem opField_eq (w : Word) : opField w = w.toNat / 0x1000 := by
  have := w.isLt
  simp only [opField, BitVec.extractLsb_toNat, Nat.shiftRight_eq_div_pow]
  omega

theorem xField_val (w : Word) : (xField w).val = w.toNat / 0x100 % 0x10 := by
  show (w.extractLsb 11 8).toNat = _
  simp only [BitVec.extractLsb_toNat, Nat.shiftRight_eq_div_pow]

theorem yField_val (w : Word) : (yField w).val = w.toNat / 0x10 % 0x10 := by
  show (w.extractLsb 7 4).toNat = _
  simp only [BitVec.extractLsb_toNat, Nat.shiftRight_eq_div_pow]

theorem nField_eq (w : Word) : nField w = w.toNat % 0x10 := by
  simp only [nField, BitVec.extractLsb_toNat, Nat.shiftRight_eq_div_pow]
  omega

theorem kkField_toNat (w : Word) : (kkField w).toNat = w.toNat % 0x100 := by
  simp only [kkField, BitVec.extractLsb_toNat, Nat.shiftRight_eq_div_pow]
  omega

theorem nnnField_toNat (w : Word) : (nnnField w).toNat = w.toNat % 0x1000 := by
  simp only [nnnField, BitVec.toNat_setWidth, BitVec.extractLsb_toNat, Nat.shiftRight_eq_div_pow]
  omega

theorem opField_lt (w : Word) : opField w < 0x10 := by
  have := w.isLt
  rw [opField_eq]
  omega

theorem nField_lt (w : Word) : nField w < 0x10 := by
  rw [nField_eq]
  omega

theorem nnnField_lt (w : Word) : (nnnField w).toNat < 0x1000 := by
  rw [nnnField_toNat]
  omega

/-! ## The encoder's words as numbers -/

theorem nnnWord_toNat (op : Nat) (nnn : Word) (h : op < 0x10) :
    (nnnWord op nnn).toNat = op * 0x1000 + nnn.toNat % 0x1000 := by
  simp only [nnnWord, BitVec.toNat_ofNat]
  omega

theorem xkkWord_toNat (op : Nat) (x : Reg) (kk : Byte) (h : op < 0x10) :
    (xkkWord op x kk).toNat = op * 0x1000 + x.val * 0x100 + kk.toNat := by
  have := x.isLt
  have := kk.isLt
  simp only [xkkWord, BitVec.toNat_ofNat]
  omega

theorem xynWord_toNat (op : Nat) (x y : Reg) (n : Nat) (h : op < 0x10) :
    (xynWord op x y n).toNat = op * 0x1000 + x.val * 0x100 + y.val * 0x10 + n % 0x10 := by
  have := x.isLt
  have := y.isLt
  simp only [xynWord, BitVec.toNat_ofNat]
  omega

/-! ## Fields of the encoder's words -/

section
variable (op : Nat) (h : op < 0x10)
include h

theorem opField_nnnWord (nnn : Word) : opField (nnnWord op nnn) = op := by
  rw [opField_eq, nnnWord_toNat op nnn h]
  omega

theorem nnnField_nnnWord (nnn : Word) (hn : nnn.toNat < 0x1000) : nnnField (nnnWord op nnn) = nnn := by
  apply BitVec.eq_of_toNat_eq
  rw [nnnField_toNat, nnnWord_toNat op nnn h]
  omega

theorem opField_xkkWord (x : Reg) (kk : Byte) : opField (xkkWord op x kk) = op := by
  have := x.isLt
  have := kk.isLt
  rw [opField_eq, xkkWord_toNat op x kk h]
  omega

theorem xField_xkkWord (x : Reg) (kk : Byte) : xField (xkkWord op x kk) = x := by
  have := x.isLt
  have := kk.isLt
  apply Fin.ext
  rw [xField_val, xkkWord_toNat op x kk h]
  omega

theorem kkField_xkkWord (x : Reg) (kk : Byte) : kkField (xkkWord op x kk) = kk := by
  have := kk.isLt
  apply BitVec.eq_of_toNat_eq
  rw [kkField_toNat, xkkWord_toNat op x kk h]
  omega

theorem opField_xynWord (x y : Reg) (n : Nat) : opField (xynWord op x y n) = op := by
  have := x.isLt
  have := y.isLt
  rw [opField_eq, xynWord_toNat op x y n h]
  omega

theorem xField_xynWord (x y : Reg) (n : Nat) : xField (xynWord op x y n) = x := by
  have := x.isLt
  have := y.isLt
  apply Fin.ext
  rw [xField_val, xynWord_toNat op x y n h]
  omega

theorem yField_xynWord (x y : Reg) (n : Nat) : yField (xynWord op x y n) = y := by
  have := x.isLt
  have := y.isLt
  apply Fin.ext
  rw [yField_val, xynWord_toNat op x y n h]
  omega

theorem nField_xynWord (x y : Reg) (n : Nat) (hn : n < 0x10) : nField (xynWord op x y n) = n := by
  rw [nField_eq, xynWord_toNat op x y n h]
  omega

end

/-! ## Bytes and words -/

theorem wordOfBytes_toNat (hi lo : Byte) : (wordOfBytes hi lo).toNat = hi.toNat * 0x100 + lo.toNat := by
  have := hi.isLt
  have := lo.isLt
  simp only [wordOfBytes, BitVec.toNat_ofNat]
  omega

theorem highByte_toNat (w : Word) : (highByte w).toNat = w.toNat / 0x100 := by
  have := w.isLt
  simp only [highByte, BitVec.extractLsb_toNat, Nat.shiftRight_eq_div_pow]
  omega

theorem lowByte_toNat (w : Word) : (lowByte w).toNat = w.toNat % 0x100 := by
  simp only [lowByte, BitVec.extractLsb_toNat, Nat.shiftRight_eq_div_pow]
  omega

/-- A word is its two bytes, the high one first (20_memory.md R76). -/
theorem wordOfBytes_split (w : Word) : wordOfBytes (highByte w) (lowByte w) = w := by
  apply BitVec.eq_of_toNat_eq
  rw [wordOfBytes_toNat, highByte_toNat, lowByte_toNat]
  omega

/-- The decoder gives well-formed instructions only: every field is within its range (R103). -/
theorem decode_wellFormed (w : Word) (i : Instr) (h : decode w = .ok i) : i.WellFormed = true := by
  have hn := nnnField_lt w
  have hr := nField_lt w
  revert h
  unfold decode decodeAlu decodeMisc
  repeat' split
  all_goals intro h
  all_goals cases h
  all_goals
    first
      | rfl
      | exact decide_eq_true hn
      | exact decide_eq_true hr

/-- The decoder refuses a word by one name only, with the word itself. -/
theorem decode_error (w : Word) (r : Reject) (h : decode w = .error r) : r = .invalidOpcode w := by
  revert h
  unfold decode decodeAlu decodeMisc
  repeat' split
  all_goals intro h
  all_goals cases h
  all_goals rfl

/-! ## Nibbles and masks (R101, R105) -/

/-- A word is its four nibbles. -/
theorem word_eq_iff (w v : Word) :
    w = v ↔ opField w = opField v ∧ xField w = xField v ∧ yField w = yField v ∧ nField w = nField v := by
  constructor
  · rintro rfl
    exact ⟨rfl, rfl, rfl, rfl⟩
  · rintro ⟨h1, h2, h3, h4⟩
    replace h2 := congrArg Fin.val h2
    replace h3 := congrArg Fin.val h3
    rw [opField_eq, opField_eq] at h1
    rw [xField_val, xField_val] at h2
    rw [yField_val, yField_val] at h3
    rw [nField_eq, nField_eq] at h4
    exact BitVec.eq_of_toNat_eq (by omega)

theorem opField_and (w m : Word) : opField (w &&& m) = opField w &&& opField m := by
  simp [opField, BitVec.extractLsb, BitVec.extractLsb'_and]

theorem xField_and (w m : Word) : (xField (w &&& m)).val = (xField w).val &&& (xField m).val := by
  show ((w &&& m).extractLsb 11 8).toNat = (w.extractLsb 11 8).toNat &&& (m.extractLsb 11 8).toNat
  simp [BitVec.extractLsb, BitVec.extractLsb'_and]

theorem yField_and (w m : Word) : (yField (w &&& m)).val = (yField w).val &&& (yField m).val := by
  show ((w &&& m).extractLsb 7 4).toNat = (w.extractLsb 7 4).toNat &&& (m.extractLsb 7 4).toNat
  simp [BitVec.extractLsb, BitVec.extractLsb'_and]

theorem nField_and (w m : Word) : nField (w &&& m) = nField w &&& nField m := by
  simp [nField, BitVec.extractLsb, BitVec.extractLsb'_and]

theorem and_0xF_of_lt (a : Nat) (h : a < 0x10) : a &&& 0xF = a :=
  Nat.and_two_pow_sub_one_of_lt_two_pow (n := 4) h

/-- `kk = y : n` (R101). -/
theorem kkField_eq_iff (w : Word) (b : Byte) :
    kkField w = b ↔ (yField w).val = b.toNat / 0x10 ∧ nField w = b.toNat % 0x10 := by
  have := b.isLt
  rw [← BitVec.toNat_inj, kkField_toNat, yField_val, nField_eq]
  omega

/-- `w & mask == match`, nibble by nibble. -/
theorem and_eq_iff (w m v : Word) :
    w &&& m = v ↔
      opField w &&& opField m = opField v ∧ (xField w).val &&& (xField m).val = (xField v).val ∧
      (yField w).val &&& (yField m).val = (yField v).val ∧ nField w &&& nField m = nField v := by
  rw [word_eq_iff, opField_and, nField_and, Fin.ext_iff, Fin.ext_iff, xField_and, yField_and]

/-- A row of mask 0xF000 matches by the high nibble. -/
theorem matches_F000 (name : String) (w : Word) (op : Nat) (h : op < 0x10) :
    (OpcodeRow.mk name (BitVec.ofNat 16 (op * 0x1000)) 0xF000).Matches w = (opField w == op) := by
  have hv : (BitVec.ofNat 16 (op * 0x1000)).toNat = op * 0x1000 := by
    rw [BitVec.toNat_ofNat]
    omega
  have h1 : opField w &&& opField 0xF000 = opField w := and_0xF_of_lt _ (opField_lt w)
  have h2 : (xField w).val &&& (xField 0xF000).val = 0 := Nat.and_zero _
  have h3 : (yField w).val &&& (yField 0xF000).val = 0 := Nat.and_zero _
  have h4 : nField w &&& nField 0xF000 = 0 := Nat.and_zero _
  rw [OpcodeRow.Matches, Bool.eq_iff_iff, beq_iff_eq, beq_iff_eq, and_eq_iff, h1, h2, h3, h4,
    opField_eq (BitVec.ofNat 16 _), xField_val, yField_val, nField_eq, hv]
  omega

/-- A row of mask 0xF00F matches by the high and the low nibble. -/
theorem matches_F00F (name : String) (w : Word) (op n : Nat) (h : op < 0x10) (hn : n < 0x10) :
    (OpcodeRow.mk name (BitVec.ofNat 16 (op * 0x1000 + n)) 0xF00F).Matches w =
      (opField w == op && nField w == n) := by
  have hv : (BitVec.ofNat 16 (op * 0x1000 + n)).toNat = op * 0x1000 + n := by
    rw [BitVec.toNat_ofNat]
    omega
  have h1 : opField w &&& opField 0xF00F = opField w := and_0xF_of_lt _ (opField_lt w)
  have h2 : (xField w).val &&& (xField 0xF00F).val = 0 := Nat.and_zero _
  have h3 : (yField w).val &&& (yField 0xF00F).val = 0 := Nat.and_zero _
  have h4 : nField w &&& nField 0xF00F = nField w := and_0xF_of_lt _ (nField_lt w)
  have h5 := nField_eq (BitVec.ofNat 16 (op * 0x1000 + n))
  rw [OpcodeRow.Matches, Bool.eq_iff_iff, beq_iff_eq, Bool.and_eq_true, beq_iff_eq, beq_iff_eq, and_eq_iff,
    h1, h2, h3, h4, h5, opField_eq (BitVec.ofNat 16 _), xField_val, yField_val, hv]
  omega

/-- A row of mask 0xF0FF matches by the high nibble and the low byte. -/
theorem matches_F0FF (name : String) (w : Word) (op : Nat) (kk : Byte) (h : op < 0x10) :
    (OpcodeRow.mk name (BitVec.ofNat 16 (op * 0x1000 + kk.toNat)) 0xF0FF).Matches w =
      (opField w == op && kkField w == kk) := by
  have hk := kk.isLt
  have hv : (BitVec.ofNat 16 (op * 0x1000 + kk.toNat)).toNat = op * 0x1000 + kk.toNat := by
    rw [BitVec.toNat_ofNat]
    omega
  have h1 : opField w &&& opField 0xF0FF = opField w := and_0xF_of_lt _ (opField_lt w)
  have h2 : (xField w).val &&& (xField 0xF0FF).val = 0 := Nat.and_zero _
  have h3 : (yField w).val &&& (yField 0xF0FF).val = (yField w).val := and_0xF_of_lt _ (yField w).isLt
  have h4 : nField w &&& nField 0xF0FF = nField w := and_0xF_of_lt _ (nField_lt w)
  have h5 := nField_eq (BitVec.ofNat 16 (op * 0x1000 + kk.toNat))
  have h6 := yField_val (BitVec.ofNat 16 (op * 0x1000 + kk.toNat))
  rw [OpcodeRow.Matches, Bool.eq_iff_iff, beq_iff_eq, Bool.and_eq_true, beq_iff_eq, beq_iff_eq, and_eq_iff,
    h1, h2, h3, h4, h5, h6, opField_eq (BitVec.ofNat 16 _), xField_val, hv, kkField_eq_iff]
  omega

end Sys2Proof
end

