-- ==== Sys2Proof/Laws/State.lean ====
section
/-!
SUPPORT. What each named update of the state does to each field: one lemma per field, true by rfl.
-/

namespace Sys2Proof.Machine

/-! ## setV -/

@[simp] theorem State.setV_V (s : State) (x : Reg) (b : Byte) : (s.setV x b).V = s.V.set x b := rfl
@[simp] theorem State.setV_I (s : State) (x : Reg) (b : Byte) : (s.setV x b).I = s.I := rfl
@[simp] theorem State.setV_pc (s : State) (x : Reg) (b : Byte) : (s.setV x b).pc = s.pc := rfl
@[simp] theorem State.setV_stack (s : State) (x : Reg) (b : Byte) :
    (s.setV x b).stack = s.stack := rfl
@[simp] theorem State.setV_DT (s : State) (x : Reg) (b : Byte) : (s.setV x b).DT = s.DT := rfl
@[simp] theorem State.setV_ST (s : State) (x : Reg) (b : Byte) : (s.setV x b).ST = s.ST := rfl
@[simp] theorem State.setV_mem (s : State) (x : Reg) (b : Byte) : (s.setV x b).mem = s.mem := rfl
@[simp] theorem State.setV_disp (s : State) (x : Reg) (b : Byte) : (s.setV x b).disp = s.disp := rfl
@[simp] theorem State.setV_run (s : State) (x : Reg) (b : Byte) : (s.setV x b).run = s.run := rfl
@[simp] theorem State.setV_haltRecord (s : State) (x : Reg) (b : Byte) :
    (s.setV x b).haltRecord = s.haltRecord := rfl
@[simp] theorem State.setV_reports (s : State) (x : Reg) (b : Byte) :
    (s.setV x b).reports = s.reports := rfl
@[simp] theorem State.setV_keys (s : State) (x : Reg) (b : Byte) : (s.setV x b).keys = s.keys := rfl
@[simp] theorem State.setV_batch (s : State) (x : Reg) (b : Byte) :
    (s.setV x b).batch = s.batch := rfl
@[simp] theorem State.setV_loadOpen (s : State) (x : Reg) (b : Byte) :
    (s.setV x b).loadOpen = s.loadOpen := rfl
@[simp] theorem State.setV_env (s : State) (x : Reg) (b : Byte) : (s.setV x b).env = s.env := rfl

/-! ## loadRegs -/

@[simp] theorem State.loadRegs_V (s : State) (x : Reg) (a : Nat) :
    (s.loadRegs x a).V = loadInto s.V s.mem a (x.val + 1) := rfl
@[simp] theorem State.loadRegs_I (s : State) (x : Reg) (a : Nat) : (s.loadRegs x a).I = s.I := rfl
@[simp] theorem State.loadRegs_pc (s : State) (x : Reg) (a : Nat) :
    (s.loadRegs x a).pc = s.pc := rfl
@[simp] theorem State.loadRegs_stack (s : State) (x : Reg) (a : Nat) :
    (s.loadRegs x a).stack = s.stack := rfl
@[simp] theorem State.loadRegs_DT (s : State) (x : Reg) (a : Nat) :
    (s.loadRegs x a).DT = s.DT := rfl
@[simp] theorem State.loadRegs_ST (s : State) (x : Reg) (a : Nat) :
    (s.loadRegs x a).ST = s.ST := rfl
@[simp] theorem State.loadRegs_mem (s : State) (x : Reg) (a : Nat) :
    (s.loadRegs x a).mem = s.mem := rfl
@[simp] theorem State.loadRegs_disp (s : State) (x : Reg) (a : Nat) :
    (s.loadRegs x a).disp = s.disp := rfl
@[simp] theorem State.loadRegs_run (s : State) (x : Reg) (a : Nat) :
    (s.loadRegs x a).run = s.run := rfl
@[simp] theorem State.loadRegs_haltRecord (s : State) (x : Reg) (a : Nat) :
    (s.loadRegs x a).haltRecord = s.haltRecord := rfl
@[simp] theorem State.loadRegs_reports (s : State) (x : Reg) (a : Nat) :
    (s.loadRegs x a).reports = s.reports := rfl
@[simp] theorem State.loadRegs_keys (s : State) (x : Reg) (a : Nat) :
    (s.loadRegs x a).keys = s.keys := rfl
@[simp] theorem State.loadRegs_batch (s : State) (x : Reg) (a : Nat) :
    (s.loadRegs x a).batch = s.batch := rfl
@[simp] theorem State.loadRegs_loadOpen (s : State) (x : Reg) (a : Nat) :
    (s.loadRegs x a).loadOpen = s.loadOpen := rfl
@[simp] theorem State.loadRegs_env (s : State) (x : Reg) (a : Nat) :
    (s.loadRegs x a).env = s.env := rfl

/-! ## setI -/

@[simp] theorem State.setI_V (s : State) (v : Word) : (s.setI v).V = s.V := rfl
@[simp] theorem State.setI_I (s : State) (v : Word) : (s.setI v).I = v := rfl
@[simp] theorem State.setI_pc (s : State) (v : Word) : (s.setI v).pc = s.pc := rfl
@[simp] theorem State.setI_stack (s : State) (v : Word) : (s.setI v).stack = s.stack := rfl
@[simp] theorem State.setI_DT (s : State) (v : Word) : (s.setI v).DT = s.DT := rfl
@[simp] theorem State.setI_ST (s : State) (v : Word) : (s.setI v).ST = s.ST := rfl
@[simp] theorem State.setI_mem (s : State) (v : Word) : (s.setI v).mem = s.mem := rfl
@[simp] theorem State.setI_disp (s : State) (v : Word) : (s.setI v).disp = s.disp := rfl
@[simp] theorem State.setI_run (s : State) (v : Word) : (s.setI v).run = s.run := rfl
@[simp] theorem State.setI_haltRecord (s : State) (v : Word) :
    (s.setI v).haltRecord = s.haltRecord := rfl
@[simp] theorem State.setI_reports (s : State) (v : Word) : (s.setI v).reports = s.reports := rfl
@[simp] theorem State.setI_keys (s : State) (v : Word) : (s.setI v).keys = s.keys := rfl
@[simp] theorem State.setI_batch (s : State) (v : Word) : (s.setI v).batch = s.batch := rfl
@[simp] theorem State.setI_loadOpen (s : State) (v : Word) : (s.setI v).loadOpen = s.loadOpen := rfl
@[simp] theorem State.setI_env (s : State) (v : Word) : (s.setI v).env = s.env := rfl

/-! ## advance -/

@[simp] theorem State.advance_V (s : State) : (s.advance).V = s.V := rfl
@[simp] theorem State.advance_I (s : State) : (s.advance).I = s.I := rfl
@[simp] theorem State.advance_pc (s : State) : (s.advance).pc = s.pc + 2 := rfl
@[simp] theorem State.advance_stack (s : State) : (s.advance).stack = s.stack := rfl
@[simp] theorem State.advance_DT (s : State) : (s.advance).DT = s.DT := rfl
@[simp] theorem State.advance_ST (s : State) : (s.advance).ST = s.ST := rfl
@[simp] theorem State.advance_mem (s : State) : (s.advance).mem = s.mem := rfl
@[simp] theorem State.advance_disp (s : State) : (s.advance).disp = s.disp := rfl
@[simp] theorem State.advance_run (s : State) : (s.advance).run = s.run := rfl
@[simp] theorem State.advance_haltRecord (s : State) : (s.advance).haltRecord = s.haltRecord := rfl
@[simp] theorem State.advance_reports (s : State) : (s.advance).reports = s.reports := rfl
@[simp] theorem State.advance_keys (s : State) : (s.advance).keys = s.keys := rfl
@[simp] theorem State.advance_batch (s : State) : (s.advance).batch = s.batch := rfl
@[simp] theorem State.advance_loadOpen (s : State) : (s.advance).loadOpen = s.loadOpen := rfl
@[simp] theorem State.advance_env (s : State) : (s.advance).env = s.env := rfl

/-! ## skipWhen -/

@[simp] theorem State.skipWhen_V (s : State) (c : Bool) : (s.skipWhen c).V = s.V := rfl
@[simp] theorem State.skipWhen_I (s : State) (c : Bool) : (s.skipWhen c).I = s.I := rfl
@[simp] theorem State.skipWhen_pc (s : State) (c : Bool) :
    (s.skipWhen c).pc = s.pc + (if c then 4 else 2) := rfl
@[simp] theorem State.skipWhen_stack (s : State) (c : Bool) : (s.skipWhen c).stack = s.stack := rfl
@[simp] theorem State.skipWhen_DT (s : State) (c : Bool) : (s.skipWhen c).DT = s.DT := rfl
@[simp] theorem State.skipWhen_ST (s : State) (c : Bool) : (s.skipWhen c).ST = s.ST := rfl
@[simp] theorem State.skipWhen_mem (s : State) (c : Bool) : (s.skipWhen c).mem = s.mem := rfl
@[simp] theorem State.skipWhen_disp (s : State) (c : Bool) : (s.skipWhen c).disp = s.disp := rfl
@[simp] theorem State.skipWhen_run (s : State) (c : Bool) : (s.skipWhen c).run = s.run := rfl
@[simp] theorem State.skipWhen_haltRecord (s : State) (c : Bool) :
    (s.skipWhen c).haltRecord = s.haltRecord := rfl
@[simp] theorem State.skipWhen_reports (s : State) (c : Bool) :
    (s.skipWhen c).reports = s.reports := rfl
@[simp] theorem State.skipWhen_keys (s : State) (c : Bool) : (s.skipWhen c).keys = s.keys := rfl
@[simp] theorem State.skipWhen_batch (s : State) (c : Bool) : (s.skipWhen c).batch = s.batch := rfl
@[simp] theorem State.skipWhen_loadOpen (s : State) (c : Bool) :
    (s.skipWhen c).loadOpen = s.loadOpen := rfl
@[simp] theorem State.skipWhen_env (s : State) (c : Bool) : (s.skipWhen c).env = s.env := rfl

/-! ## jump -/

@[simp] theorem State.jump_V (s : State) (a : Word) : (s.jump a).V = s.V := rfl
@[simp] theorem State.jump_I (s : State) (a : Word) : (s.jump a).I = s.I := rfl
@[simp] theorem State.jump_pc (s : State) (a : Word) : (s.jump a).pc = a := rfl
@[simp] theorem State.jump_stack (s : State) (a : Word) : (s.jump a).stack = s.stack := rfl
@[simp] theorem State.jump_DT (s : State) (a : Word) : (s.jump a).DT = s.DT := rfl
@[simp] theorem State.jump_ST (s : State) (a : Word) : (s.jump a).ST = s.ST := rfl
@[simp] theorem State.jump_mem (s : State) (a : Word) : (s.jump a).mem = s.mem := rfl
@[simp] theorem State.jump_disp (s : State) (a : Word) : (s.jump a).disp = s.disp := rfl
@[simp] theorem State.jump_run (s : State) (a : Word) : (s.jump a).run = s.run := rfl
@[simp] theorem State.jump_haltRecord (s : State) (a : Word) :
    (s.jump a).haltRecord = s.haltRecord := rfl
@[simp] theorem State.jump_reports (s : State) (a : Word) : (s.jump a).reports = s.reports := rfl
@[simp] theorem State.jump_keys (s : State) (a : Word) : (s.jump a).keys = s.keys := rfl
@[simp] theorem State.jump_batch (s : State) (a : Word) : (s.jump a).batch = s.batch := rfl
@[simp] theorem State.jump_loadOpen (s : State) (a : Word) : (s.jump a).loadOpen = s.loadOpen := rfl
@[simp] theorem State.jump_env (s : State) (a : Word) : (s.jump a).env = s.env := rfl

/-! ## setWithFlag -/

@[simp] theorem State.setWithFlag_V (s : State) (x : Reg) (r f : Byte) :
    (s.setWithFlag x r f).V = (s.V.set x r).set VF f := rfl
@[simp] theorem State.setWithFlag_I (s : State) (x : Reg) (r f : Byte) :
    (s.setWithFlag x r f).I = s.I := rfl
@[simp] theorem State.setWithFlag_pc (s : State) (x : Reg) (r f : Byte) :
    (s.setWithFlag x r f).pc = s.pc := rfl
@[simp] theorem State.setWithFlag_stack (s : State) (x : Reg) (r f : Byte) :
    (s.setWithFlag x r f).stack = s.stack := rfl
@[simp] theorem State.setWithFlag_DT (s : State) (x : Reg) (r f : Byte) :
    (s.setWithFlag x r f).DT = s.DT := rfl
@[simp] theorem State.setWithFlag_ST (s : State) (x : Reg) (r f : Byte) :
    (s.setWithFlag x r f).ST = s.ST := rfl
@[simp] theorem State.setWithFlag_mem (s : State) (x : Reg) (r f : Byte) :
    (s.setWithFlag x r f).mem = s.mem := rfl
@[simp] theorem State.setWithFlag_disp (s : State) (x : Reg) (r f : Byte) :
    (s.setWithFlag x r f).disp = s.disp := rfl
@[simp] theorem State.setWithFlag_run (s : State) (x : Reg) (r f : Byte) :
    (s.setWithFlag x r f).run = s.run := rfl
@[simp] theorem State.setWithFlag_haltRecord (s : State) (x : Reg) (r f : Byte) :
    (s.setWithFlag x r f).haltRecord = s.haltRecord := rfl
@[simp] theorem State.setWithFlag_reports (s : State) (x : Reg) (r f : Byte) :
    (s.setWithFlag x r f).reports = s.reports := rfl
@[simp] theorem State.setWithFlag_keys (s : State) (x : Reg) (r f : Byte) :
    (s.setWithFlag x r f).keys = s.keys := rfl
@[simp] theorem State.setWithFlag_batch (s : State) (x : Reg) (r f : Byte) :
    (s.setWithFlag x r f).batch = s.batch := rfl
@[simp] theorem State.setWithFlag_loadOpen (s : State) (x : Reg) (r f : Byte) :
    (s.setWithFlag x r f).loadOpen = s.loadOpen := rfl
@[simp] theorem State.setWithFlag_env (s : State) (x : Reg) (r f : Byte) :
    (s.setWithFlag x r f).env = s.env := rfl

/-! ## drawn -/

@[simp] theorem State.drawn_V (s : State) (b : Blit) :
    (s.drawn b).V = s.V.set VF (flagByte b.collision) := rfl
@[simp] theorem State.drawn_I (s : State) (b : Blit) : (s.drawn b).I = s.I := rfl
@[simp] theorem State.drawn_pc (s : State) (b : Blit) : (s.drawn b).pc = s.pc + 2 := rfl
@[simp] theorem State.drawn_stack (s : State) (b : Blit) : (s.drawn b).stack = s.stack := rfl
@[simp] theorem State.drawn_DT (s : State) (b : Blit) : (s.drawn b).DT = s.DT := rfl
@[simp] theorem State.drawn_ST (s : State) (b : Blit) : (s.drawn b).ST = s.ST := rfl
@[simp] theorem State.drawn_mem (s : State) (b : Blit) : (s.drawn b).mem = s.mem := rfl
@[simp] theorem State.drawn_disp (s : State) (b : Blit) : (s.drawn b).disp = b.disp := rfl
@[simp] theorem State.drawn_run (s : State) (b : Blit) : (s.drawn b).run = s.run := rfl
@[simp] theorem State.drawn_haltRecord (s : State) (b : Blit) :
    (s.drawn b).haltRecord = s.haltRecord := rfl
@[simp] theorem State.drawn_reports (s : State) (b : Blit) : (s.drawn b).reports = s.reports := rfl
@[simp] theorem State.drawn_keys (s : State) (b : Blit) : (s.drawn b).keys = s.keys := rfl
@[simp] theorem State.drawn_batch (s : State) (b : Blit) : (s.drawn b).batch = s.batch := rfl
@[simp] theorem State.drawn_loadOpen (s : State) (b : Blit) :
    (s.drawn b).loadOpen = s.loadOpen := rfl
@[simp] theorem State.drawn_env (s : State) (b : Blit) : (s.drawn b).env = s.env := rfl

/-! ## endBatch -/

@[simp] theorem State.endBatch_V (s : State) : (s.endBatch).V = s.V := rfl
@[simp] theorem State.endBatch_I (s : State) : (s.endBatch).I = s.I := rfl
@[simp] theorem State.endBatch_pc (s : State) : (s.endBatch).pc = s.pc := rfl
@[simp] theorem State.endBatch_stack (s : State) : (s.endBatch).stack = s.stack := rfl
@[simp] theorem State.endBatch_DT (s : State) : (s.endBatch).DT = s.DT := rfl
@[simp] theorem State.endBatch_ST (s : State) : (s.endBatch).ST = s.ST := rfl
@[simp] theorem State.endBatch_mem (s : State) : (s.endBatch).mem = s.mem := rfl
@[simp] theorem State.endBatch_disp (s : State) : (s.endBatch).disp = s.disp := rfl
@[simp] theorem State.endBatch_run (s : State) : (s.endBatch).run = s.run := rfl
@[simp] theorem State.endBatch_haltRecord (s : State) :
    (s.endBatch).haltRecord = s.haltRecord := rfl
@[simp] theorem State.endBatch_reports (s : State) : (s.endBatch).reports = s.reports := rfl
@[simp] theorem State.endBatch_keys (s : State) : (s.endBatch).keys = s.keys := rfl
@[simp] theorem State.endBatch_batch (s : State) : (s.endBatch).batch = 0 := rfl
@[simp] theorem State.endBatch_loadOpen (s : State) : (s.endBatch).loadOpen = s.loadOpen := rfl
@[simp] theorem State.endBatch_env (s : State) : (s.endBatch).env = s.env := rfl

/-! ## halt -/

@[simp] theorem State.halt_V (s : State) (e : FatalError) (w : Option Word) :
    (s.halt e w).V = s.V := rfl
@[simp] theorem State.halt_I (s : State) (e : FatalError) (w : Option Word) :
    (s.halt e w).I = s.I := rfl
@[simp] theorem State.halt_pc (s : State) (e : FatalError) (w : Option Word) :
    (s.halt e w).pc = s.pc := rfl
@[simp] theorem State.halt_stack (s : State) (e : FatalError) (w : Option Word) :
    (s.halt e w).stack = s.stack := rfl
@[simp] theorem State.halt_DT (s : State) (e : FatalError) (w : Option Word) :
    (s.halt e w).DT = s.DT := rfl
@[simp] theorem State.halt_ST (s : State) (e : FatalError) (w : Option Word) :
    (s.halt e w).ST = s.ST := rfl
@[simp] theorem State.halt_mem (s : State) (e : FatalError) (w : Option Word) :
    (s.halt e w).mem = s.mem := rfl
@[simp] theorem State.halt_disp (s : State) (e : FatalError) (w : Option Word) :
    (s.halt e w).disp = s.disp := rfl
@[simp] theorem State.halt_run (s : State) (e : FatalError) (w : Option Word) :
    (s.halt e w).run = .halted := rfl
@[simp] theorem State.halt_haltRecord (s : State) (e : FatalError) (w : Option Word) :
    (s.halt e w).haltRecord = some ⟨e, s.pc, w⟩ := rfl
@[simp] theorem State.halt_reports (s : State) (e : FatalError) (w : Option Word) :
    (s.halt e w).reports = s.reports := rfl
@[simp] theorem State.halt_keys (s : State) (e : FatalError) (w : Option Word) :
    (s.halt e w).keys = s.keys := rfl
@[simp] theorem State.halt_batch (s : State) (e : FatalError) (w : Option Word) :
    (s.halt e w).batch = 0 := rfl
@[simp] theorem State.halt_loadOpen (s : State) (e : FatalError) (w : Option Word) :
    (s.halt e w).loadOpen = s.loadOpen := rfl
@[simp] theorem State.halt_env (s : State) (e : FatalError) (w : Option Word) :
    (s.halt e w).env = s.env := rfl

/-! ## report -/

@[simp] theorem State.report_V (s : State) (w : Word) : (s.report w).V = s.V := rfl
@[simp] theorem State.report_I (s : State) (w : Word) : (s.report w).I = s.I := rfl
@[simp] theorem State.report_pc (s : State) (w : Word) : (s.report w).pc = s.pc + 2 := rfl
@[simp] theorem State.report_stack (s : State) (w : Word) : (s.report w).stack = s.stack := rfl
@[simp] theorem State.report_DT (s : State) (w : Word) : (s.report w).DT = s.DT := rfl
@[simp] theorem State.report_ST (s : State) (w : Word) : (s.report w).ST = s.ST := rfl
@[simp] theorem State.report_mem (s : State) (w : Word) : (s.report w).mem = s.mem := rfl
@[simp] theorem State.report_disp (s : State) (w : Word) : (s.report w).disp = s.disp := rfl
@[simp] theorem State.report_run (s : State) (w : Word) : (s.report w).run = s.run := rfl
@[simp] theorem State.report_haltRecord (s : State) (w : Word) :
    (s.report w).haltRecord = s.haltRecord := rfl
@[simp] theorem State.report_reports (s : State) (w : Word) :
    (s.report w).reports = s.reports ++ [⟨s.pc, w⟩] := rfl
@[simp] theorem State.report_keys (s : State) (w : Word) : (s.report w).keys = s.keys := rfl
@[simp] theorem State.report_batch (s : State) (w : Word) : (s.report w).batch = s.batch := rfl
@[simp] theorem State.report_loadOpen (s : State) (w : Word) :
    (s.report w).loadOpen = s.loadOpen := rfl
@[simp] theorem State.report_env (s : State) (w : Word) : (s.report w).env = s.env := rfl

/-! ## quit -/

@[simp] theorem State.quit_V (s : State) : (s.quit).V = s.V := rfl
@[simp] theorem State.quit_I (s : State) : (s.quit).I = s.I := rfl
@[simp] theorem State.quit_pc (s : State) : (s.quit).pc = s.pc := rfl
@[simp] theorem State.quit_stack (s : State) : (s.quit).stack = s.stack := rfl
@[simp] theorem State.quit_DT (s : State) : (s.quit).DT = s.DT := rfl
@[simp] theorem State.quit_ST (s : State) : (s.quit).ST = s.ST := rfl
@[simp] theorem State.quit_mem (s : State) : (s.quit).mem = s.mem := rfl
@[simp] theorem State.quit_disp (s : State) : (s.quit).disp = s.disp := rfl
@[simp] theorem State.quit_run (s : State) : (s.quit).run = .halted := rfl
@[simp] theorem State.quit_haltRecord (s : State) : (s.quit).haltRecord = s.haltRecord := rfl
@[simp] theorem State.quit_reports (s : State) : (s.quit).reports = s.reports := rfl
@[simp] theorem State.quit_keys (s : State) : (s.quit).keys = s.keys := rfl
@[simp] theorem State.quit_batch (s : State) : (s.quit).batch = s.batch := rfl
@[simp] theorem State.quit_loadOpen (s : State) : (s.quit).loadOpen = s.loadOpen := rfl
@[simp] theorem State.quit_env (s : State) : (s.quit).env = s.env := rfl

/-! ## beginTick -/

@[simp] theorem State.beginTick_V (s : State) (k : Latch) : (s.beginTick k).V = s.V := rfl
@[simp] theorem State.beginTick_I (s : State) (k : Latch) : (s.beginTick k).I = s.I := rfl
@[simp] theorem State.beginTick_pc (s : State) (k : Latch) : (s.beginTick k).pc = s.pc := rfl
@[simp] theorem State.beginTick_stack (s : State) (k : Latch) :
    (s.beginTick k).stack = s.stack := rfl
@[simp] theorem State.beginTick_DT (s : State) (k : Latch) : (s.beginTick k).DT = decay s.DT := rfl
@[simp] theorem State.beginTick_ST (s : State) (k : Latch) : (s.beginTick k).ST = decay s.ST := rfl
@[simp] theorem State.beginTick_mem (s : State) (k : Latch) : (s.beginTick k).mem = s.mem := rfl
@[simp] theorem State.beginTick_disp (s : State) (k : Latch) : (s.beginTick k).disp = s.disp := rfl
@[simp] theorem State.beginTick_run (s : State) (k : Latch) : (s.beginTick k).run = s.run := rfl
@[simp] theorem State.beginTick_haltRecord (s : State) (k : Latch) :
    (s.beginTick k).haltRecord = s.haltRecord := rfl
@[simp] theorem State.beginTick_reports (s : State) (k : Latch) :
    (s.beginTick k).reports = s.reports := rfl
@[simp] theorem State.beginTick_keys (s : State) (k : Latch) : (s.beginTick k).keys = k := rfl
@[simp] theorem State.beginTick_batch (s : State) (k : Latch) :
    (s.beginTick k).batch = hardware.batch := rfl
@[simp] theorem State.beginTick_loadOpen (s : State) (k : Latch) :
    (s.beginTick k).loadOpen = false := rfl
@[simp] theorem State.beginTick_env (s : State) (k : Latch) : (s.beginTick k).env = s.env := rfl

/-! ## supply -/

@[simp] theorem State.supply_V (s : State) (k : Latch) (rs : List Byte) :
    (s.supply k rs).V = s.V := rfl
@[simp] theorem State.supply_I (s : State) (k : Latch) (rs : List Byte) :
    (s.supply k rs).I = s.I := rfl
@[simp] theorem State.supply_pc (s : State) (k : Latch) (rs : List Byte) :
    (s.supply k rs).pc = s.pc := rfl
@[simp] theorem State.supply_stack (s : State) (k : Latch) (rs : List Byte) :
    (s.supply k rs).stack = s.stack := rfl
@[simp] theorem State.supply_DT (s : State) (k : Latch) (rs : List Byte) :
    (s.supply k rs).DT = s.DT := rfl
@[simp] theorem State.supply_ST (s : State) (k : Latch) (rs : List Byte) :
    (s.supply k rs).ST = s.ST := rfl
@[simp] theorem State.supply_mem (s : State) (k : Latch) (rs : List Byte) :
    (s.supply k rs).mem = s.mem := rfl
@[simp] theorem State.supply_disp (s : State) (k : Latch) (rs : List Byte) :
    (s.supply k rs).disp = s.disp := rfl
@[simp] theorem State.supply_run (s : State) (k : Latch) (rs : List Byte) :
    (s.supply k rs).run = s.run := rfl
@[simp] theorem State.supply_haltRecord (s : State) (k : Latch) (rs : List Byte) :
    (s.supply k rs).haltRecord = s.haltRecord := rfl
@[simp] theorem State.supply_reports (s : State) (k : Latch) (rs : List Byte) :
    (s.supply k rs).reports = s.reports := rfl
@[simp] theorem State.supply_keys (s : State) (k : Latch) (rs : List Byte) :
    (s.supply k rs).keys = s.keys := rfl
@[simp] theorem State.supply_batch (s : State) (k : Latch) (rs : List Byte) :
    (s.supply k rs).batch = s.batch := rfl
@[simp] theorem State.supply_loadOpen (s : State) (k : Latch) (rs : List Byte) :
    (s.supply k rs).loadOpen = s.loadOpen := rfl
@[simp] theorem State.supply_env (s : State) (k : Latch) (rs : List Byte) :
    (s.supply k rs).env = { s.env with latches := k :: s.env.latches, randoms := s.env.randoms ++ rs } := rfl

/-! ## takeRandom: only the inputs to come change -/

@[simp] theorem State.takeRandom_V (s : State) : s.takeRandom.2.V = s.V := by
  unfold State.takeRandom; split <;> rfl
@[simp] theorem State.takeRandom_I (s : State) : s.takeRandom.2.I = s.I := by
  unfold State.takeRandom; split <;> rfl
@[simp] theorem State.takeRandom_pc (s : State) : s.takeRandom.2.pc = s.pc := by
  unfold State.takeRandom; split <;> rfl
@[simp] theorem State.takeRandom_stack (s : State) : s.takeRandom.2.stack = s.stack := by
  unfold State.takeRandom; split <;> rfl
@[simp] theorem State.takeRandom_DT (s : State) : s.takeRandom.2.DT = s.DT := by
  unfold State.takeRandom; split <;> rfl
@[simp] theorem State.takeRandom_ST (s : State) : s.takeRandom.2.ST = s.ST := by
  unfold State.takeRandom; split <;> rfl
@[simp] theorem State.takeRandom_mem (s : State) : s.takeRandom.2.mem = s.mem := by
  unfold State.takeRandom; split <;> rfl
@[simp] theorem State.takeRandom_disp (s : State) : s.takeRandom.2.disp = s.disp := by
  unfold State.takeRandom; split <;> rfl
@[simp] theorem State.takeRandom_run (s : State) : s.takeRandom.2.run = s.run := by
  unfold State.takeRandom; split <;> rfl
@[simp] theorem State.takeRandom_haltRecord (s : State) : s.takeRandom.2.haltRecord = s.haltRecord := by
  unfold State.takeRandom; split <;> rfl
@[simp] theorem State.takeRandom_reports (s : State) : s.takeRandom.2.reports = s.reports := by
  unfold State.takeRandom; split <;> rfl
@[simp] theorem State.takeRandom_keys (s : State) : s.takeRandom.2.keys = s.keys := by
  unfold State.takeRandom; split <;> rfl
@[simp] theorem State.takeRandom_batch (s : State) : s.takeRandom.2.batch = s.batch := by
  unfold State.takeRandom; split <;> rfl
@[simp] theorem State.takeRandom_loadOpen (s : State) : s.takeRandom.2.loadOpen = s.loadOpen := by
  unfold State.takeRandom; split <;> rfl

/-! ## takeLatch: only the inputs to come change -/

@[simp] theorem State.takeLatch_V (s : State) : s.takeLatch.2.V = s.V := by
  unfold State.takeLatch; split <;> rfl
@[simp] theorem State.takeLatch_I (s : State) : s.takeLatch.2.I = s.I := by
  unfold State.takeLatch; split <;> rfl
@[simp] theorem State.takeLatch_pc (s : State) : s.takeLatch.2.pc = s.pc := by
  unfold State.takeLatch; split <;> rfl
@[simp] theorem State.takeLatch_stack (s : State) : s.takeLatch.2.stack = s.stack := by
  unfold State.takeLatch; split <;> rfl
@[simp] theorem State.takeLatch_DT (s : State) : s.takeLatch.2.DT = s.DT := by
  unfold State.takeLatch; split <;> rfl
@[simp] theorem State.takeLatch_ST (s : State) : s.takeLatch.2.ST = s.ST := by
  unfold State.takeLatch; split <;> rfl
@[simp] theorem State.takeLatch_mem (s : State) : s.takeLatch.2.mem = s.mem := by
  unfold State.takeLatch; split <;> rfl
@[simp] theorem State.takeLatch_disp (s : State) : s.takeLatch.2.disp = s.disp := by
  unfold State.takeLatch; split <;> rfl
@[simp] theorem State.takeLatch_run (s : State) : s.takeLatch.2.run = s.run := by
  unfold State.takeLatch; split <;> rfl
@[simp] theorem State.takeLatch_haltRecord (s : State) : s.takeLatch.2.haltRecord = s.haltRecord := by
  unfold State.takeLatch; split <;> rfl
@[simp] theorem State.takeLatch_reports (s : State) : s.takeLatch.2.reports = s.reports := by
  unfold State.takeLatch; split <;> rfl
@[simp] theorem State.takeLatch_keys (s : State) : s.takeLatch.2.keys = s.keys := by
  unfold State.takeLatch; split <;> rfl
@[simp] theorem State.takeLatch_batch (s : State) : s.takeLatch.2.batch = s.batch := by
  unfold State.takeLatch; split <;> rfl
@[simp] theorem State.takeLatch_loadOpen (s : State) : s.takeLatch.2.loadOpen = s.loadOpen := by
  unfold State.takeLatch; split <;> rfl

/-! ## enterTick -/

@[simp] theorem State.enterTick_V (s : State) : s.enterTick.V = s.V := by
  simp [State.enterTick]
@[simp] theorem State.enterTick_I (s : State) : s.enterTick.I = s.I := by
  simp [State.enterTick]
@[simp] theorem State.enterTick_pc (s : State) : s.enterTick.pc = s.pc := by
  simp [State.enterTick]
@[simp] theorem State.enterTick_stack (s : State) : s.enterTick.stack = s.stack := by
  simp [State.enterTick]
@[simp] theorem State.enterTick_DT (s : State) : s.enterTick.DT = decay s.DT := by
  simp [State.enterTick]
@[simp] theorem State.enterTick_ST (s : State) : s.enterTick.ST = decay s.ST := by
  simp [State.enterTick]
@[simp] theorem State.enterTick_mem (s : State) : s.enterTick.mem = s.mem := by
  simp [State.enterTick]
@[simp] theorem State.enterTick_disp (s : State) : s.enterTick.disp = s.disp := by
  simp [State.enterTick]
@[simp] theorem State.enterTick_run (s : State) : s.enterTick.run = s.run := by
  simp [State.enterTick]
@[simp] theorem State.enterTick_haltRecord (s : State) : s.enterTick.haltRecord = s.haltRecord := by
  simp [State.enterTick]
@[simp] theorem State.enterTick_reports (s : State) : s.enterTick.reports = s.reports := by
  simp [State.enterTick]
@[simp] theorem State.enterTick_batch (s : State) : s.enterTick.batch = hardware.batch := by
  simp [State.enterTick]
@[simp] theorem State.enterTick_loadOpen (s : State) : s.enterTick.loadOpen = false := by
  simp [State.enterTick]

/-- With a latch value queued, the tick takes it and uses it up. -/
theorem State.enterTick_of_latch (s : State) (k : Latch) (rest : List Latch) (h : s.env.latches = k :: rest) :
    s.enterTick.keys = k ∧ s.enterTick.env = { s.env with latches := rest, ticks := s.env.ticks + 1 } := by
  simp [State.enterTick, State.takeLatch, h]

/-- With none queued, the tick takes a free value. -/
theorem State.enterTick_of_no_latch (s : State) (h : s.env.latches = []) :
    s.enterTick.keys = Config.freeLatch s.env.ticks ∧
      s.enterTick.env = { s.env with ticks := s.env.ticks + 1 } := by
  simp [State.enterTick, State.takeLatch, h]

@[simp] theorem State.enterTick_randoms (s : State) : s.enterTick.env.randoms = s.env.randoms := by
  unfold State.enterTick State.takeLatch
  split <;> rfl

/-! ## Registers -/

theorem State.getV_setV (s : State) (x r : Reg) (b : Byte) :
    (s.setV x b).getV r = if x = r then b else s.getV r := by
  simp [State.getV, Vector.getElem_set, Fin.ext_iff]

@[simp] theorem State.getV_setV_self (s : State) (x : Reg) (b : Byte) : (s.setV x b).getV x = b := by
  simp [State.getV_setV]

theorem State.getV_setV_of_ne (s : State) (x r : Reg) (b : Byte) (h : r ≠ x) :
    (s.setV x b).getV r = s.getV r := by
  simp [State.getV_setV, Ne.symm h]

theorem State.getV_setWithFlag (s : State) (x r : Reg) (v f : Byte) :
    (s.setWithFlag x v f).getV r = if r = VF then f else if r = x then v else s.getV r := by
  simp only [State.setWithFlag, State.getV_setV, eq_comm]

theorem loadInto_getElem (V : Vector Byte 16) (m : Memory) (a n : Nat) (hn : n ≤ 16) (k : Nat) (hk : k < 16) :
    (loadInto V m a n)[k] = if k < n then m.read (a + k) else V[k] := by
  induction n with
  | zero => simp [loadInto]
  | succ n ih =>
    simp only [loadInto, Vector.getElem_set, ih (by omega), Nat.mod_eq_of_lt (show n < 16 by omega)]
    by_cases h1 : n = k
    · simp [h1]
    · by_cases h2 : k < n
      · have h3 : k < n + 1 := by omega
        simp [h1, h2, h3]
      · have h3 : ¬ k < n + 1 := by omega
        simp [h1, h2, h3]

theorem State.getV_loadRegs (s : State) (x k : Reg) (a : Nat) :
    (s.loadRegs x a).getV k = if k ≤ x then s.mem.read (a + k.val) else s.getV k := by
  have hx := x.isLt
  show (loadInto s.V s.mem a (x.val + 1))[k.val] = _
  rw [loadInto_getElem _ _ _ _ (by omega) _ k.isLt]
  simp only [Fin.le_def, Nat.lt_succ_iff]
  rfl

/-- A register read sees only the register file. -/
theorem State.getV_congr (s t : State) (h : t.V = s.V) (r : Reg) : t.getV r = s.getV r := by
  simp [State.getV, h]

/-- The register file is known once every register is. -/
theorem State.V_ext (s t : State) (h : ∀ r, t.getV r = s.getV r) : t.V = s.V := by
  apply Vector.ext
  intro i hi
  exact h ⟨i, hi⟩

end Sys2Proof.Machine
end

