-- ==== Sys2Proof/Laws/Display.lean ====
section
/-!
SUPPORT. The display: a pixel after a flip, and what the pieces of a blit do to pixels and collision.
-/

namespace Sys2Proof.Machine

@[simp] theorem Display.clear_pixel (x y : Nat) : Display.clear.pixel x y = false := by
  simp [Display.clear, Display.pixel]

/-- Coordinates wrap (44_display.md R221). -/
theorem Display.pixel_mod (d : Display) (x y : Nat) : d.pixel (x % 64) (y % 32) = d.pixel x y := by
  simp [Display.pixel]

/-- A flip changes the one pixel it names, in wrapped coordinates. -/
theorem Display.pixel_flip (d : Display) (x y px py : Nat) :
    (d.flip x y).pixel px py =
      if x % 64 = px % 64 ∧ y % 32 = py % 32 then !d.pixel px py else d.pixel px py := by
  by_cases hx : x % 64 = px % 64 <;> by_cases hy : y % 32 = py % 32 <;>
    simp [Display.flip, Display.pixel, hx, hy]

/-- The display is known once every pixel is. -/
theorem Display.ext (d d' : Display) (h : ∀ x y, d.pixel x y = d'.pixel x y) : d = d' := by
  apply Vector.ext
  intro x hx
  apply Vector.ext
  intro y hy
  have := h x y
  simpa [Display.pixel, Nat.mod_eq_of_lt hx, Nat.mod_eq_of_lt hy] using this

@[simp] theorem Blit.bit_false (b : Blit) (x y : Nat) : b.bit x y false = b := rfl

@[simp] theorem Blit.bit_true (b : Blit) (x y : Nat) :
    b.bit x y true = ⟨b.disp.flip x y, b.collision || b.disp.pixel x y⟩ := rfl

/-- One sprite bit on the display. -/
theorem Blit.bit_pixel (b : Blit) (x y : Nat) (on : Bool) (px py : Nat) :
    (b.bit x y on).disp.pixel px py =
      if on ∧ x % 64 = px % 64 ∧ y % 32 = py % 32 then !b.disp.pixel px py else b.disp.pixel px py := by
  cases on <;> simp [Display.pixel_flip]

/-- One sprite bit and the collision. -/
theorem Blit.bit_collision (b : Blit) (x y : Nat) (on : Bool) :
    (b.bit x y on).collision = (b.collision || (on && b.disp.pixel x y)) := by
  cases on <;> simp

end Sys2Proof.Machine
end

