-- ==== Sys2Proof/Laws/Memory.lean ====
section
/-!
SUPPORT. The laws of memory: a read after a write, and the canonical form is kept by every operation.
-/

namespace Sys2Proof.Machine

/-! ## The canonical form -/

theorem Memory.wfFrom_mono {lo lo' : Nat} (h : lo' ≤ lo) (m : Memory) (hm : Memory.wfFrom lo m = true) :
    Memory.wfFrom lo' m = true := by
  cases m with
  | nil => rfl
  | cons c rest =>
    obtain ⟨k, b⟩ := c
    simp only [Memory.wfFrom, Bool.and_eq_true, decide_eq_true_eq] at hm ⊢
    exact ⟨⟨⟨by omega, hm.1.1.2⟩, hm.1.2⟩, hm.2⟩

/-- A cell below the first listed address holds its reset contents. -/
theorem Memory.read_of_lt {lo : Nat} (m : Memory) (hm : Memory.wfFrom lo m = true) (a : Nat) (h : a < lo) :
    Memory.read m a = Memory.initial a := by
  induction m generalizing lo with
  | nil => rfl
  | cons c rest ih =>
    obtain ⟨k, b⟩ := c
    simp only [Memory.wfFrom, Bool.and_eq_true, decide_eq_true_eq] at hm
    have hne : k ≠ a := by omega
    simp only [Memory.read, hne, if_false]
    exact ih hm.2 (by omega)

theorem Memory.write_wfFrom {lo : Nat} (m : Memory) (hm : Memory.wfFrom lo m = true) (a : Nat) (b : Byte)
    (hlo : lo ≤ a) (ha : a < memSize) : Memory.wfFrom lo (Memory.write m a b) = true := by
  induction m generalizing lo with
  | nil =>
    simp only [Memory.write]
    split
    · rfl
    · next h => simp [Memory.wfFrom, hlo, ha, h]
  | cons c rest ih =>
    obtain ⟨k, v⟩ := c
    simp only [Memory.wfFrom, Bool.and_eq_true, decide_eq_true_eq] at hm
    obtain ⟨⟨⟨hk, hks⟩, hv⟩, hr⟩ := hm
    simp only [Memory.write]
    split
    · next hak =>
      split
      · simp [Memory.wfFrom, hk, hks, hv, hr]
      · next h => simp [Memory.wfFrom, hlo, ha, h, hks, hv, hr, Nat.succ_le_of_lt hak]
    · split
      · next hak =>
        subst hak
        split
        · exact Memory.wfFrom_mono (by omega) rest hr
        · next h => simp [Memory.wfFrom, hlo, ha, h, hr]
      · have hlt : k + 1 ≤ a := by omega
        simp [Memory.wfFrom, hk, hks, hv, ih hr hlt]

/-- A write to an existing cell keeps the canonical form. -/
theorem Memory.write_wf (m : Memory) (hm : m.wf = true) (a : Nat) (b : Byte) (ha : a < memSize) :
    (m.write a b).wf = true :=
  Memory.write_wfFrom m hm a b (Nat.zero_le a) ha

/-- A block write to existing cells keeps the canonical form. -/
theorem Memory.writeBlock_wf (bs : List Byte) (m : Memory) (hm : m.wf = true) (a : Nat)
    (ha : a + bs.length ≤ memSize) : (m.writeBlock a bs).wf = true := by
  induction bs generalizing m a with
  | nil => exact hm
  | cons b bs ih =>
    simp only [List.length_cons] at ha
    exact ih _ (Memory.write_wf m hm a b (by omega)) (a + 1) (by omega)

/-- Memory right after reset is in the canonical form. -/
theorem Memory.reset_wf : State.reset.mem.wf = true := rfl

/-! ## Read after write -/

/-- A write changes the cell written and no other; it needs the canonical form, in which an address
absent from the list reads as its reset contents. -/
theorem Memory.read_write_from {lo : Nat} (m : Memory) (hm : Memory.wfFrom lo m = true) (a : Nat) (b : Byte)
    (c : Nat) : Memory.read (Memory.write m a b) c = if c = a then b else Memory.read m c := by
  induction m generalizing lo with
  | nil =>
    simp only [Memory.write]
    split
    · next h => by_cases hc : c = a <;> simp [Memory.read, hc, h]
    · by_cases hc : c = a
      · simp [Memory.read, hc]
      · simp [Memory.read, hc, Ne.symm hc]
  | cons e rest ih =>
    obtain ⟨k, v⟩ := e
    simp only [Memory.wfFrom, Bool.and_eq_true, decide_eq_true_eq] at hm
    obtain ⟨_, hr⟩ := hm
    simp only [Memory.write]
    split
    · next hak =>
      split
      · next h =>
        by_cases hc : c = a
        · subst hc
          have hne : k ≠ c := by omega
          simp [Memory.read, hne, h, Memory.read_of_lt rest hr c (by omega)]
        · simp [hc]
      · by_cases hc : c = a
        · simp [Memory.read, hc]
        · simp [Memory.read, hc, Ne.symm hc]
    · split
      · next hak =>
        subst hak
        split
        · next h =>
          by_cases hc : c = a
          · subst hc
            simp [h, Memory.read_of_lt rest hr c (by omega)]
          · simp [Memory.read, hc, Ne.symm hc]
        · by_cases hc : c = a
          · simp [Memory.read, hc]
          · simp [Memory.read, hc, Ne.symm hc]
      · next h1 h2 =>
        simp only [Memory.read, ih hr]
        by_cases hc : c = a
        · have hne : k ≠ a := Ne.symm h2
          simp [hc, hne]
        · simp [hc]

/-- Reading after writing one cell, in a canonical memory. -/
theorem Memory.read_write (m : Memory) (hm : m.wf = true) (a : Nat) (b : Byte) (c : Nat) :
    (m.write a b).read c = if c = a then b else m.read c :=
  Memory.read_write_from m hm a b c

/-- Reading after a block write, in a canonical memory: the byte written there, or the old byte. -/
theorem Memory.read_writeBlock (bs : List Byte) (m : Memory) (hm : m.wf = true) (a : Nat)
    (ha : a + bs.length ≤ memSize) (c : Nat) :
    (m.writeBlock a bs).read c =
      if a ≤ c ∧ c < a + bs.length then bs.getD (c - a) 0 else m.read c := by
  induction bs generalizing m a with
  | nil => simp [Memory.writeBlock]
  | cons b bs ih =>
    simp only [List.length_cons] at ha
    rw [Memory.writeBlock, ih _ (Memory.write_wf m hm a b (by omega)) _ (by omega),
      Memory.read_write m hm]
    simp only [List.length_cons]
    by_cases h1 : c = a
    · subst h1
      simp
    · by_cases h2 : a + 1 ≤ c ∧ c < a + 1 + bs.length
      · have h3 : a ≤ c ∧ c < a + (bs.length + 1) := by omega
        have h4 : c - a = (c - (a + 1)) + 1 := by omega
        simp only [if_pos h2, if_pos h3, h4, List.getD_cons_succ]
      · have h3 : ¬ (a ≤ c ∧ c < a + (bs.length + 1)) := by omega
        simp only [if_neg h1, if_neg h2, if_neg h3]

/-- Two canonical memories that read the same everywhere are the same list. -/
theorem Memory.ext_from {lo : Nat} (m m' : Memory) (hm : Memory.wfFrom lo m = true)
    (hm' : Memory.wfFrom lo m' = true) (h : ∀ a, Memory.read m a = Memory.read m' a) : m = m' := by
  induction m generalizing lo m' with
  | nil =>
    cases m' with
    | nil => rfl
    | cons e rest =>
      obtain ⟨k, b⟩ := e
      simp only [Memory.wfFrom, Bool.and_eq_true, decide_eq_true_eq] at hm'
      have := h k
      simp [Memory.read] at this
      exact absurd this.symm hm'.1.2
  | cons e rest ih =>
    obtain ⟨k, b⟩ := e
    have hm0 := hm
    simp only [Memory.wfFrom, Bool.and_eq_true, decide_eq_true_eq] at hm
    obtain ⟨⟨⟨hk, _⟩, hb⟩, hr⟩ := hm
    cases m' with
    | nil =>
      have := h k
      simp [Memory.read] at this
      exact absurd this hb
    | cons e' rest' =>
      obtain ⟨k', b'⟩ := e'
      have hm0' := hm'
      simp only [Memory.wfFrom, Bool.and_eq_true, decide_eq_true_eq] at hm'
      obtain ⟨⟨⟨hk', _⟩, hb'⟩, hr'⟩ := hm'
      have hkk : k = k' := by
        rcases Nat.lt_trichotomy k k' with hlt | heq | hlt
        · have h1 := h k
          have hne : k' ≠ k := by omega
          simp only [Memory.read, if_true, if_neg hne] at h1
          rw [Memory.read_of_lt rest' hr' k (by omega)] at h1
          exact absurd h1 hb
        · exact heq
        · have h1 := h k'
          have hne : k ≠ k' := by omega
          simp only [Memory.read, if_true, if_neg hne] at h1
          rw [Memory.read_of_lt rest hr k' (by omega)] at h1
          exact absurd h1.symm hb'
      subst hkk
      have hbb : b = b' := by
        have := h k
        simpa [Memory.read] using this
      subst hbb
      congr 1
      refine ih rest' hr hr' fun a => ?_
      have h1 := h a
      by_cases hka : k = a
      · subst hka
        rw [Memory.read_of_lt rest hr k (by omega), Memory.read_of_lt rest' hr' k (by omega)]
      · simpa only [Memory.read, if_neg hka] using h1

/-- Equal memories are equal data. -/
theorem Memory.ext (m m' : Memory) (hm : m.wf = true) (hm' : m'.wf = true)
    (h : ∀ a, m.read a = m'.read a) : m = m' :=
  Memory.ext_from m m' hm hm' h

/-! ## Blocks -/

@[simp] theorem Memory.readBlock_length (m : Memory) (a n : Nat) : (m.readBlock a n).length = n := by
  induction n generalizing a with
  | zero => rfl
  | succ n ih => simp [Memory.readBlock, ih]

theorem Memory.readBlock_getD (m : Memory) (a n k : Nat) (hk : k < n) :
    (m.readBlock a n).getD k 0 = m.read (a + k) := by
  induction n generalizing a k with
  | zero => omega
  | succ n ih =>
    cases k with
    | zero => simp [Memory.readBlock]
    | succ k =>
      rw [Memory.readBlock, List.getD_cons_succ, ih (a + 1) k (by omega)]
      congr 1
      omega

/-! ## The memory of a `FONT` -/

theorem Memory.ofFont_wf (font : Font) : (Memory.ofFont font).wf = true :=
  Memory.writeBlock_wf font.toList [] rfl hardware.glyphBase (by simp [hardware, memSize])

/-- After reset the 80 cells from `GLYPH_BASE` on hold the `FONT`. -/
theorem Memory.read_ofFont (font : Font) (k : Fin 80) :
    (Memory.ofFont font).read (hardware.glyphBase + k.val) = font[k] := by
  rw [Memory.ofFont, Memory.read_writeBlock _ _ rfl _ (by simp [hardware, memSize])]
  simp

/-- The other cells hold their reset contents, whatever the `FONT`. -/
theorem Memory.read_ofFont_of_ge (font : Font) (a : Nat) (h : hardware.glyphBase + 80 ≤ a) :
    (Memory.ofFont font).read a = Memory.initial a := by
  rw [Memory.ofFont, Memory.read_writeBlock _ _ rfl _ (by simp [hardware, memSize]), if_neg]
  · rfl
  · simp only [Vector.length_toList]
    omega

/-- "zero-fill" above the glyphs (20_memory.md R80). -/
theorem Memory.initial_of_ge (a : Nat) (h : hardware.glyphBase + 80 ≤ a) : Memory.initial a = 0 := by
  have hb : hardware.glyphBase ≤ a := by omega
  rw [Memory.initial, if_pos hb, List.getD_eq_default]
  simp only [Vector.length_toList]
  omega

/-- With the default `FONT` nothing is listed. -/
theorem Memory.ofFont_default : Memory.ofFont hardware.font = [] := by decide

end Sys2Proof.Machine
end

