-- ==== Sys2Proof/Laws/Ops.lean ====
section
/-!
SUPPORT. For each shared operation, once, everything it can do.
-/

namespace Sys2Proof.Machine

/-! ## Checks and operands -/

/-- `CheckRange` passes exactly when the last cell exists (43_index_memory.md R204). -/
theorem checkRange_ok_iff (base count : Nat) :
    checkRange base count = .ok () ↔ base + count - 1 ≤ 0xFFF := by
  unfold checkRange
  split <;> simp <;> omega

theorem checkRange_of_le (base count : Nat) (h : base + count - 1 ≤ 0xFFF) :
    checkRange base count = .ok () :=
  (checkRange_ok_iff base count).2 h

theorem checkRange_of_gt (base count : Nat) (h : base + count - 1 > 0xFFF) :
    checkRange base count = .error (.addressFault (max base 0x1000)) := by
  simp [checkRange, h]

theorem memRead_of_le (m : Memory) (a : Nat) (h : a ≤ 0xFFF) : memRead m a = .ok (m.read a) := by
  have : ¬ a > 0xFFF := by omega
  simp [memRead, this]

theorem memRead_of_gt (m : Memory) (a : Nat) (h : a > 0xFFF) :
    memRead m a = .error (.addressFault a) := by
  simp [memRead, h]

theorem nibbleOperand_of_lt (p : OperandRangePolicy) (v : Byte) (h : v.toNat < 16) :
    nibbleOperand p v = .ok ⟨v.toNat, h⟩ := by
  simp [nibbleOperand, h]

theorem nibbleOperand_fault (v : Byte) (h : 16 ≤ v.toNat) :
    nibbleOperand .fault v = .error (.operandRange v) := by
  have : ¬ v.toNat < 16 := by omega
  simp [nibbleOperand, this]

theorem nibbleOperand_mask (v : Byte) (h : 16 ≤ v.toNat) :
    nibbleOperand .maskLowNibble v = .ok ⟨v.toNat % 16, Nat.mod_lt _ (by decide)⟩ := by
  have : ¬ v.toNat < 16 := by omega
  simp [nibbleOperand, this]

theorem wrapI_mask12_toNat (v : Nat) : (wrapI .mask12 v).toNat = v % 0x1000 := by
  simp only [wrapI, BitVec.toNat_ofNat]
  omega

theorem wrapI_wrap16_toNat (v : Nat) : (wrapI .wrap16 v).toNat = v % 0x10000 := by
  simp [wrapI, BitVec.toNat_ofNat]

theorem glyphAddress_toNat (d : Fin 16) :
    (glyphAddress d).toNat = hardware.glyphBase + glyphBytes * d.val := by
  have := d.isLt
  simp only [glyphAddress, BitVec.toNat_ofNat, hardware, glyphBytes]
  omega

@[simp] theorem decimalDigits_length (v : Byte) : (decimalDigits v).length = 3 := by
  simp [decimalDigits]

@[simp] theorem firstRegs_length (s : State) (x : Reg) : (s.firstRegs x).length = x.val + 1 := by
  have := x.isLt
  simp only [State.firstRegs, List.length_take, Vector.length_toList]
  omega

theorem firstRegs_getD (s : State) (x : Reg) (k : Nat) (hk : k < x.val + 1) (hk16 : k < 16) :
    (s.firstRegs x).getD k 0 = s.getV ⟨k, hk16⟩ := by
  simp [State.firstRegs, State.getV, hk]

/-! ## Stack -/

theorem push_of_lt (s : State) (r : Word) (h : s.stack.length < hardware.stackDepth) :
    s.push r = .ok { s with stack := s.stack ++ [r] } := by
  have : ¬ hardware.stackDepth ≤ s.stack.length := by omega
  simp [State.push, this]

theorem push_of_ge (s : State) (r : Word) (h : hardware.stackDepth ≤ s.stack.length) :
    s.push r = .error .stackOverflow := by
  simp [State.push, h]

theorem pop_nil (s : State) (h : s.stack = []) : s.pop = .error .stackUnderflow := by
  simp [State.pop, h]

theorem pop_concat (s : State) (rest : List Word) (r : Word) (h : s.stack = rest ++ [r]) :
    s.pop = .ok (r, { s with stack := rest }) := by
  simp [State.pop, h]

/-- A pop that succeeds takes the top entry and changes the stack only. -/
theorem pop_ok (s t : State) (r : Word) (h : s.pop = .ok (r, t)) :
    s.stack.getLast? = some r ∧ t = { s with stack := s.stack.dropLast } := by
  unfold State.pop at h
  split at h
  · cases h
  · next hr =>
    cases h
    exact ⟨hr, rfl⟩

/-- A push that succeeds had room and changes the stack only. -/
theorem push_ok (s t : State) (r : Word) (h : s.push r = .ok t) :
    s.stack.length < hardware.stackDepth ∧ t = { s with stack := s.stack ++ [r] } := by
  unfold State.push at h
  split at h
  · cases h
  · cases h
    exact ⟨by omega, rfl⟩

/-! ## Taking a fatal error -/

/-- The two ends of an instruction that may raise a fatal error. -/
theorem complete_cases (i : Instr) (s t : State) (r : Except FatalError State)
    (h : complete i s r = .next t) :
    r = .ok t ∨ ∃ e, r = .error e ∧ t = s.halt e (some (encode i)) := by
  cases r with
  | ok u => exact .inl (by simpa [complete] using h)
  | error e => exact .inr ⟨e, rfl, by simpa [complete] using h.symm⟩

@[simp] theorem complete_ok (i : Instr) (s t : State) : complete i s (.ok t) = .next t := rfl

@[simp] theorem complete_error (i : Instr) (s : State) (e : FatalError) :
    complete i s (.error e) = .next (s.halt e (some (encode i))) := rfl

/-- An instruction that may raise a fatal error still answers a next state. -/
theorem complete_next (i : Instr) (s : State) (r : Except FatalError State) :
    ∃ t, complete i s r = .next t := by
  cases r <;> exact ⟨_, rfl⟩

/-! ## Flags -/

@[simp] theorem flagByte_true : flagByte true = 1 := rfl
@[simp] theorem flagByte_false : flagByte false = 0 := rfl

theorem flagByte_eq_one_iff (c : Bool) : flagByte c = 1 ↔ c = true := by
  cases c <;> decide

/-! ## The observed key -/

/-- The observed key is set, and no lower key is (45_keys_timers.md R244). -/
theorem firstKey_some (keys : Latch) (k : Fin 16) (h : firstKey keys = some k) :
    keys[k] = true ∧ ∀ j : Fin 16, j < k → keys[j] = false := by
  unfold firstKey at h
  rw [List.find?_eq_some_iff_append] at h
  obtain ⟨hk, as, bs, hab, has⟩ := h
  refine ⟨hk, fun j hj => ?_⟩
  have hlt : List.Pairwise (· < ·) (List.finRange 16) := List.pairwise_lt_finRange 16
  have hmem : j ∈ as ++ k :: bs := hab ▸ List.mem_finRange j
  rw [hab, List.pairwise_append] at hlt
  rcases List.mem_append.1 hmem with hja | hjb
  · simpa using has j hja
  · rcases List.mem_cons.1 hjb with rfl | hjb
    · exact absurd hj (lt_irrefl _)
    · have := (List.pairwise_cons.1 hlt.2.1).1 j hjb
      exact absurd hj (lt_asymm this)

/-- No key is observed exactly when no flag is set. -/
theorem firstKey_none_iff (keys : Latch) : firstKey keys = none ↔ ∀ k : Fin 16, keys[k] = false := by
  simp [firstKey, List.find?_eq_none]

end Sys2Proof.Machine
end

