-- ==== Sys2Proof/Laws/Step.lean ====
section
/-!
SUPPORT. What a fetch, a step of the core and a step of the machine can do.
-/

namespace Sys2Proof.Machine

/-! ## Fetch (40_step.md R131) -/

theorem fetch_of_lt (s : State) (h : s.pc.toNat < 0xFFF) :
    fetch s = .ok (wordOfBytes (s.mem.read s.pc.toNat) (s.mem.read (s.pc.toNat + 1))) := by
  simp [fetch, memRead_of_le _ _ (show s.pc.toNat ≤ 0xFFF by omega),
    memRead_of_le _ _ (show s.pc.toNat + 1 ≤ 0xFFF by omega)]

theorem fetch_at_top (s : State) (h : s.pc.toNat = 0xFFF) : fetch s = .error (.addressFault 0x1000) := by
  simp [fetch, h, memRead_of_le, memRead_of_gt]

theorem fetch_beyond (s : State) (h : 0xFFF < s.pc.toNat) :
    fetch s = .error (.addressFault s.pc.toNat) := by
  simp [fetch, memRead_of_gt _ _ h]

/-- A fetch that succeeds was made below the last cell. -/
theorem fetch_ok_lt (s : State) (w : Word) (h : fetch s = .ok w) : s.pc.toNat < 0xFFF := by
  rcases Nat.lt_trichotomy s.pc.toNat 0xFFF with hlt | heq | hgt
  · exact hlt
  · simp [fetch_at_top s heq] at h
  · simp [fetch_beyond s hgt] at h

/-- A fetch reads memory and `pc` only. -/
theorem fetch_congr (s t : State) (hm : t.mem = s.mem) (hp : t.pc = s.pc) : fetch t = fetch s := by
  simp [fetch, hm, hp]

/-! ## One step of the core (40_step.md R132) -/

theorem coreStep_of_instr (s : State) (w : Word) (i : Instr) (hf : fetch s = .ok w)
    (hd : decode w = .ok i) : coreStep s = exec i s := by
  simp [coreStep, hf, hd]

theorem coreStep_of_invalid (s : State) (w : Word) (r : Reject) (hf : fetch s = .ok w)
    (hd : decode w = .error r) : coreStep s = .next (s.report w) := by
  simp [coreStep, hf, hd]

theorem coreStep_of_fault (s : State) (e : FatalError) (hf : fetch s = .error e) :
    coreStep s = .next (s.halt e none) := by
  simp [coreStep, hf]

/-- Everything a step of the core can do. -/
theorem coreStep_cases (s : State) (a : Answer) (h : coreStep s = a) :
    (∃ e, fetch s = .error e ∧ a = .next (s.halt e none)) ∨
    (∃ w r, fetch s = .ok w ∧ decode w = .error r ∧ a = .next (s.report w)) ∨
    (∃ w i, fetch s = .ok w ∧ decode w = .ok i ∧ a = exec i s) := by
  subst h
  cases hf : fetch s with
  | error e => exact .inl ⟨e, rfl, coreStep_of_fault s e hf⟩
  | ok w =>
    cases hd : decode w with
    | error r => exact .inr (.inl ⟨w, r, rfl, hd, coreStep_of_invalid s w r hf hd⟩)
    | ok i => exact .inr (.inr ⟨w, i, rfl, hd, coreStep_of_instr s w i hf hd⟩)

/-! ## One step of the machine (60_exceptions.md R280) -/

theorem step_of_halted (s : State) (h : s.run = .halted) : step s = .next s := by
  simp [step, cycle, h]

theorem step_of_running (s : State) (h : s.run = .running) :
    step s = batchTurn (if s.batch = 0 then s.enterTick else s) := by
  simp [step, cycle, h]

theorem batchTurn_at_end (s : State) (h : 0x1000 ≤ s.pc.toNat) : batchTurn s = .next s.endBatch := by
  simp [batchTurn, h]

theorem batchTurn_below_end (s : State) (h : s.pc.toNat < 0x1000) :
    batchTurn s = coreStep { s with batch := s.batch - 1 } := by
  have : ¬ 0x1000 ≤ s.pc.toNat := by omega
  simp [batchTurn, this]

end Sys2Proof.Machine
end

