-- ==== Sys2Proof/Laws/Exec.lean ====
section
/-!
SUPPORT. For each instruction that can end in more than one way, once, all its ends; the frame of a fatal
error; and the introduction of a frame field by field.
-/

namespace Sys2Proof.Machine

/-! ## The ends of the instructions that can raise a fatal error -/

theorem execRet_cases (s : State) :
    (s.stack = [] ∧ execRet s = .next (s.halt .stackUnderflow (some (encode .ret)))) ∨
    ∃ r, s.stack.getLast? = some r ∧
      execRet s = .next ({ s with stack := s.stack.dropLast }.jump r) := by
  cases hp : s.pop with
  | error e =>
    refine .inl ?_
    have h0 : s.stack = [] := by
      by_contra hne
      obtain ⟨rest, r, hr⟩ := List.eq_nil_or_concat s.stack |>.resolve_left hne
      rw [List.concat_eq_append] at hr
      simp only [pop_concat s rest r hr, reduceCtorEq] at hp
    refine ⟨h0, ?_⟩
    simp only [execRet, pop_nil s h0, complete_error]
  | ok p =>
    obtain ⟨hr, ht⟩ := pop_ok s p.2 p.1 hp
    exact .inr ⟨p.1, hr, by simp only [execRet, hp, complete_ok, ht]⟩

theorem execCall_cases (nnn : Word) (s : State) :
    (hardware.stackDepth ≤ s.stack.length ∧
      execCall nnn s = .next (s.halt .stackOverflow (some (encode (.call nnn))))) ∨
    (s.stack.length < hardware.stackDepth ∧
      execCall nnn s = .next ({ s with stack := s.stack ++ [s.pc + 2] }.jump nnn)) := by
  rcases Nat.lt_or_ge s.stack.length hardware.stackDepth with h | h
  · exact .inr ⟨h, by simp only [execCall, push_of_lt s _ h, complete_ok]⟩
  · exact .inl ⟨h, by simp only [execCall, push_of_ge s _ h, complete_error]⟩

theorem execLdFVx_cases (x : Reg) (s : State) :
    (16 ≤ (s.getV x).toNat ∧
      execLdFVx x s = .next (s.halt (.operandRange (s.getV x)) (some (encode (.ldFVx x))))) ∨
    ∃ h : (s.getV x).toNat < 16,
      execLdFVx x s = .next (s.setI (glyphAddress ⟨(s.getV x).toNat, h⟩)).advance := by
  rcases Nat.lt_or_ge (s.getV x).toNat 16 with h | h
  · exact .inr ⟨h, by simp only [execLdFVx, nibbleOperand_of_lt _ _ h, complete_ok]⟩
  · exact .inl ⟨h, by simp only [execLdFVx, hardware, nibbleOperand_fault _ h, complete_error]⟩

theorem execSkp_cases (x : Reg) (s : State) :
    (16 ≤ (s.getV x).toNat ∧
      execSkp x s = .next (s.halt (.operandRange (s.getV x)) (some (encode (.skp x))))) ∨
    ∃ h : (s.getV x).toNat < 16, execSkp x s = .next (s.skipWhen s.keys[(s.getV x).toNat]) := by
  rcases Nat.lt_or_ge (s.getV x).toNat 16 with h | h
  · exact .inr ⟨h, by simp only [execSkp, nibbleOperand_of_lt _ _ h, complete_ok, Fin.getElem_fin]⟩
  · exact .inl ⟨h, by simp only [execSkp, hardware, nibbleOperand_fault _ h, complete_error]⟩

theorem execSknp_cases (x : Reg) (s : State) :
    (16 ≤ (s.getV x).toNat ∧
      execSknp x s = .next (s.halt (.operandRange (s.getV x)) (some (encode (.sknp x))))) ∨
    ∃ h : (s.getV x).toNat < 16, execSknp x s = .next (s.skipWhen (!s.keys[(s.getV x).toNat])) := by
  rcases Nat.lt_or_ge (s.getV x).toNat 16 with h | h
  · exact .inr ⟨h, by simp only [execSknp, nibbleOperand_of_lt _ _ h, complete_ok, Fin.getElem_fin]⟩
  · exact .inl ⟨h, by simp only [execSknp, hardware, nibbleOperand_fault _ h, complete_error]⟩

theorem execLdBVx_cases (x : Reg) (s : State) :
    (0xFFF < s.I.toNat + 2 ∧
      execLdBVx x s = .next (s.halt (.addressFault (max s.I.toNat 0x1000)) (some (encode (.ldBVx x))))) ∨
    (s.I.toNat + 2 ≤ 0xFFF ∧
      execLdBVx x s =
        .next { s with mem := s.mem.writeBlock s.I.toNat (decimalDigits (s.getV x)) }.advance) := by
  rcases Nat.lt_or_ge 0xFFF (s.I.toNat + 2) with h | h
  · exact .inl ⟨h, by simp only [execLdBVx, checkRange_of_gt s.I.toNat 3 (by omega), complete_error]⟩
  · exact .inr ⟨h, by simp only [execLdBVx, checkRange_of_le s.I.toNat 3 (by omega), complete_ok]⟩

theorem execLdMemVx_cases (x : Reg) (s : State) :
    (0xFFF < s.I.toNat + x.val ∧
      execLdMemVx x s =
        .next (s.halt (.addressFault (max s.I.toNat 0x1000)) (some (encode (.ldMemVx x))))) ∨
    (s.I.toNat + x.val ≤ 0xFFF ∧
      execLdMemVx x s = .next ({ s with mem := s.mem.writeBlock s.I.toNat (s.firstRegs x) }.setI
        (wrapI hardware.iWrap (s.I.toNat + x.val + 1))).advance) := by
  rcases Nat.lt_or_ge 0xFFF (s.I.toNat + x.val) with h | h
  · exact .inl ⟨h, by
      simp only [execLdMemVx, checkRange_of_gt s.I.toNat (x.val + 1) (by omega), complete_error]⟩
  · exact .inr ⟨h, by
      simp only [execLdMemVx, checkRange_of_le s.I.toNat (x.val + 1) (by omega), complete_ok]⟩

theorem execLdVxMem_cases (x : Reg) (s : State) :
    (0xFFF < s.I.toNat + x.val ∧
      execLdVxMem x s =
        .next (s.halt (.addressFault (max s.I.toNat 0x1000)) (some (encode (.ldVxMem x))))) ∨
    (s.I.toNat + x.val ≤ 0xFFF ∧
      execLdVxMem x s = .next ((s.loadRegs x s.I.toNat).setI
        (wrapI hardware.iWrap (s.I.toNat + x.val + 1))).advance) := by
  rcases Nat.lt_or_ge 0xFFF (s.I.toNat + x.val) with h | h
  · exact .inl ⟨h, by
      simp only [execLdVxMem, checkRange_of_gt s.I.toNat (x.val + 1) (by omega), complete_error]⟩
  · exact .inr ⟨h, by
      simp only [execLdVxMem, checkRange_of_le s.I.toNat (x.val + 1) (by omega), complete_ok]⟩

theorem execDrw_cases (x y : Reg) (n : Nat) (s : State) :
    (1 ≤ n ∧ 0x1000 < s.I.toNat + n ∧
      execDrw x y n s =
        .next (s.halt (.addressFault (max s.I.toNat 0x1000)) (some (encode (.drw x y n))))) ∨
    ((n = 0 ∨ s.I.toNat + n ≤ 0x1000) ∧
      execDrw x y n s = .next (s.drawn
        (s.disp.blit (s.getV x).toNat (s.getV y).toNat (s.mem.readBlock s.I.toNat n)))) := by
  by_cases h : 1 ≤ n ∧ 0x1000 < s.I.toNat + n
  · refine .inl ⟨h.1, h.2, ?_⟩
    have h1 : n ≥ 1 := h.1
    simp only [execDrw, if_pos h1, checkRange_of_gt s.I.toNat n (by omega), complete_error]
  · refine .inr ⟨by omega, ?_⟩
    have h2 : (if n ≥ 1 then checkRange s.I.toNat n else .ok ()) = .ok () := by
      split
      · exact checkRange_of_le _ _ (by omega)
      · rfl
    simp only [execDrw, h2, complete_ok]

/-- Fx0A completes with the observed key or blocks. -/
theorem execLdVxK_cases (x : Reg) (s : State) :
    (∃ k, firstKey s.keys = some k ∧ execLdVxK x s = .next (s.setV x (BitVec.ofNat 8 k.val)).advance) ∨
    (firstKey s.keys = none ∧ execLdVxK x s = .next s.endBatch) := by
  cases h : firstKey s.keys with
  | some k => exact .inl ⟨k, rfl, by simp only [execLdVxK, h]⟩
  | none => exact .inr ⟨rfl, by simp only [execLdVxK, h]⟩

/-! ## What any instruction can do to the run state -/

/-- An instruction answers a state in which the run state and the halt record are as before, or the halt
with its own word in the record (60_exceptions.md R263 to R265). -/
theorem exec_cases (i : Instr) (s : State) :
    ∃ t, exec i s = .next t ∧
      ((t.run = s.run ∧ t.haltRecord = s.haltRecord) ∨ ∃ e, t = s.halt e (some (encode i))) := by
  cases i
  case ret =>
    rcases execRet_cases s with ⟨_, h⟩ | ⟨_, _, h⟩
    · exact ⟨_, h, .inr ⟨_, rfl⟩⟩
    · exact ⟨_, h, .inl ⟨rfl, rfl⟩⟩
  case call nnn =>
    rcases execCall_cases nnn s with ⟨_, h⟩ | ⟨_, h⟩
    · exact ⟨_, h, .inr ⟨_, rfl⟩⟩
    · exact ⟨_, h, .inl ⟨rfl, rfl⟩⟩
  case ldFVx x =>
    rcases execLdFVx_cases x s with ⟨_, h⟩ | ⟨_, h⟩
    · exact ⟨_, h, .inr ⟨_, rfl⟩⟩
    · exact ⟨_, h, .inl ⟨rfl, rfl⟩⟩
  case skp x =>
    rcases execSkp_cases x s with ⟨_, h⟩ | ⟨_, h⟩
    · exact ⟨_, h, .inr ⟨_, rfl⟩⟩
    · exact ⟨_, h, .inl ⟨rfl, rfl⟩⟩
  case sknp x =>
    rcases execSknp_cases x s with ⟨_, h⟩ | ⟨_, h⟩
    · exact ⟨_, h, .inr ⟨_, rfl⟩⟩
    · exact ⟨_, h, .inl ⟨rfl, rfl⟩⟩
  case ldBVx x =>
    rcases execLdBVx_cases x s with ⟨_, h⟩ | ⟨_, h⟩
    · exact ⟨_, h, .inr ⟨_, rfl⟩⟩
    · exact ⟨_, h, .inl ⟨rfl, rfl⟩⟩
  case ldMemVx x =>
    rcases execLdMemVx_cases x s with ⟨_, h⟩ | ⟨_, h⟩
    · exact ⟨_, h, .inr ⟨_, rfl⟩⟩
    · exact ⟨_, h, .inl ⟨rfl, rfl⟩⟩
  case ldVxMem x =>
    rcases execLdVxMem_cases x s with ⟨_, h⟩ | ⟨_, h⟩
    · exact ⟨_, h, .inr ⟨_, rfl⟩⟩
    · exact ⟨_, h, .inl ⟨rfl, rfl⟩⟩
  case drw x y n =>
    rcases execDrw_cases x y n s with ⟨_, _, h⟩ | ⟨_, h⟩
    · exact ⟨_, h, .inr ⟨_, rfl⟩⟩
    · exact ⟨_, h, .inl ⟨rfl, rfl⟩⟩
  case ldVxK x =>
    rcases execLdVxK_cases x s with ⟨_, _, h⟩ | ⟨_, h⟩
    · exact ⟨_, h, .inl ⟨rfl, rfl⟩⟩
    · exact ⟨_, h, .inl ⟨rfl, rfl⟩⟩
  case rnd x kk => exact ⟨_, rfl, .inl ⟨by simp, by simp⟩⟩
  all_goals exact ⟨_, rfl, .inl ⟨rfl, rfl⟩⟩

/-! ## Frames -/

/-- A fatal error's frame (R136, R264). -/
theorem halt_frame (s : State) (e : FatalError) (w : Option Word) :
    FrameOutside [.run, .haltRecord, .batch] s (s.halt e w) := by
  intro f hf
  cases f <;> simp [Field.Same] at hf ⊢

/-- Frames widen. -/
theorem FrameOutside.mono (c c' : List Field) (s t : State) (hc : ∀ f ∈ c, f ∈ c')
    (h : FrameOutside c s t) : FrameOutside c' s t :=
  fun f hf => h f fun hfc => hf (hc f hfc)

end Sys2Proof.Machine
end

