-- ==== Sys2Proof/Laws/PerInstr.lean ====
section
/-!
SUPPORT. The per-instruction family TableRow: the word of every instruction lies in its own row of the
opcode map (spec 30_encoding.md R105).
-/

namespace Sys2Proof.Laws

/-! ## The encoder's words under the masks of R105 -/

theorem matches_nnnWord (name : String) (op : Nat) (h : op < 0x10) (nnn : Word) :
    (OpcodeRow.mk name (BitVec.ofNat 16 (op * 0x1000)) 0xF000).Matches (nnnWord op nnn) = true := by
  rw [matches_F000 name _ op h, opField_nnnWord op h, beq_self_eq_true]

theorem matches_xkkWord (name : String) (op : Nat) (h : op < 0x10) (x : Reg) (kk : Byte) :
    (OpcodeRow.mk name (BitVec.ofNat 16 (op * 0x1000)) 0xF000).Matches (xkkWord op x kk) = true := by
  rw [matches_F000 name _ op h, opField_xkkWord op h, beq_self_eq_true]

theorem matches_xssWord (name : String) (op : Nat) (h : op < 0x10) (x : Reg) (kk : Byte) :
    (OpcodeRow.mk name (BitVec.ofNat 16 (op * 0x1000 + kk.toNat)) 0xF0FF).Matches (xkkWord op x kk) = true := by
  rw [matches_F0FF name _ op kk h, opField_xkkWord op h, kkField_xkkWord op h, beq_self_eq_true,
    beq_self_eq_true, Bool.and_self]

theorem matches_xynWord (name : String) (op : Nat) (h : op < 0x10) (x y : Reg) (n : Nat) :
    (OpcodeRow.mk name (BitVec.ofNat 16 (op * 0x1000)) 0xF000).Matches (xynWord op x y n) = true := by
  rw [matches_F000 name _ op h, opField_xynWord op h, beq_self_eq_true]

theorem matches_xysWord (name : String) (op : Nat) (h : op < 0x10) (x y : Reg) (n : Nat) (hn : n < 0x10) :
    (OpcodeRow.mk name (BitVec.ofNat 16 (op * 0x1000 + n)) 0xF00F).Matches (xynWord op x y n) = true := by
  rw [matches_F00F name _ op n h hn, opField_xynWord op h, nField_xynWord op h x y n hn, beq_self_eq_true,
    beq_self_eq_true, Bool.and_self]

/-! ## The family -/

/-- The mnemonic of an instruction, as the opcode map spells it. -/
def TableRow.mnemonic : Instr → String
  | .cls => "CLS"
  | .ret => "RET"
  | .jp _ => "JP"
  | .call _ => "CALL"
  | .seImm _ _ => "SE_IMM"
  | .sneImm _ _ => "SNE_IMM"
  | .seReg _ _ => "SE_REG"
  | .ldImm _ _ => "LD_IMM"
  | .addImm _ _ => "ADD_IMM"
  | .ldReg _ _ => "LD_REG"
  | .or _ _ => "OR"
  | .and _ _ => "AND"
  | .xor _ _ => "XOR"
  | .addReg _ _ => "ADD_REG"
  | .sub _ _ => "SUB"
  | .shr _ _ => "SHR"
  | .subn _ _ => "SUBN"
  | .shl _ _ => "SHL"
  | .sneReg _ _ => "SNE_REG"
  | .ldI _ => "LD_I"
  | .jpV0 _ => "JP_V0"
  | .rnd _ _ => "RND"
  | .drw _ _ _ => "DRW"
  | .skp _ => "SKP"
  | .sknp _ => "SKNP"
  | .ldVxDt _ => "LD_VX_DT"
  | .ldVxK _ => "LD_VX_K"
  | .ldDtVx _ => "LD_DT_VX"
  | .ldStVx _ => "LD_ST_VX"
  | .addIVx _ => "ADD_I_VX"
  | .ldFVx _ => "LD_F_VX"
  | .ldBVx _ => "LD_B_VX"
  | .ldMemVx _ => "LD_MEM_VX"
  | .ldVxMem _ => "LD_VX_MEM"

/-- The instruction's word matches a row of R105, and that row is its own. -/
def TableRow.Statement (i : Instr) : Prop :=
  ∃ r ∈ opcodeTable, r.mnemonic = TableRow.mnemonic i ∧ r.Matches (encode i) = true

/-- A row of the map that has the mnemonic and matches gives the statement. -/
theorem TableRow.of_row (i : Instr) (r : OpcodeRow) (hr : r ∈ opcodeTable)
    (hm : r.mnemonic = TableRow.mnemonic i) (hw : r.Matches (encode i) = true) : TableRow.Statement i :=
  ⟨r, hr, hm, hw⟩

theorem TableRow.cls : TableRow.Statement .cls :=
  TableRow.of_row _ ⟨"CLS", 0x00E0, 0xFFFF⟩ (by decide) rfl rfl

theorem TableRow.ret : TableRow.Statement .ret :=
  TableRow.of_row _ ⟨"RET", 0x00EE, 0xFFFF⟩ (by decide) rfl rfl

theorem TableRow.jp (nnn : Word) : TableRow.Statement (.jp nnn) :=
  TableRow.of_row _ ⟨"JP", 0x1000, 0xF000⟩ (by decide) rfl (matches_nnnWord _ 0x1 (by decide) nnn)

theorem TableRow.call (nnn : Word) : TableRow.Statement (.call nnn) :=
  TableRow.of_row _ ⟨"CALL", 0x2000, 0xF000⟩ (by decide) rfl (matches_nnnWord _ 0x2 (by decide) nnn)

theorem TableRow.seImm (x : Reg) (kk : Byte) : TableRow.Statement (.seImm x kk) :=
  TableRow.of_row _ ⟨"SE_IMM", 0x3000, 0xF000⟩ (by decide) rfl (matches_xkkWord _ 0x3 (by decide) x kk)

theorem TableRow.sneImm (x : Reg) (kk : Byte) : TableRow.Statement (.sneImm x kk) :=
  TableRow.of_row _ ⟨"SNE_IMM", 0x4000, 0xF000⟩ (by decide) rfl (matches_xkkWord _ 0x4 (by decide) x kk)

theorem TableRow.seReg (x y : Reg) : TableRow.Statement (.seReg x y) :=
  TableRow.of_row _ ⟨"SE_REG", 0x5000, 0xF00F⟩ (by decide) rfl (matches_xysWord _ 0x5 (by decide) x y 0x0 (by decide))

theorem TableRow.ldImm (x : Reg) (kk : Byte) : TableRow.Statement (.ldImm x kk) :=
  TableRow.of_row _ ⟨"LD_IMM", 0x6000, 0xF000⟩ (by decide) rfl (matches_xkkWord _ 0x6 (by decide) x kk)

theorem TableRow.addImm (x : Reg) (kk : Byte) : TableRow.Statement (.addImm x kk) :=
  TableRow.of_row _ ⟨"ADD_IMM", 0x7000, 0xF000⟩ (by decide) rfl (matches_xkkWord _ 0x7 (by decide) x kk)

theorem TableRow.ldReg (x y : Reg) : TableRow.Statement (.ldReg x y) :=
  TableRow.of_row _ ⟨"LD_REG", 0x8000, 0xF00F⟩ (by decide) rfl (matches_xysWord _ 0x8 (by decide) x y 0x0 (by decide))

theorem TableRow.or (x y : Reg) : TableRow.Statement (.or x y) :=
  TableRow.of_row _ ⟨"OR", 0x8001, 0xF00F⟩ (by decide) rfl (matches_xysWord _ 0x8 (by decide) x y 0x1 (by decide))

theorem TableRow.and (x y : Reg) : TableRow.Statement (.and x y) :=
  TableRow.of_row _ ⟨"AND", 0x8002, 0xF00F⟩ (by decide) rfl (matches_xysWord _ 0x8 (by decide) x y 0x2 (by decide))

theorem TableRow.xor (x y : Reg) : TableRow.Statement (.xor x y) :=
  TableRow.of_row _ ⟨"XOR", 0x8003, 0xF00F⟩ (by decide) rfl (matches_xysWord _ 0x8 (by decide) x y 0x3 (by decide))

theorem TableRow.addReg (x y : Reg) : TableRow.Statement (.addReg x y) :=
  TableRow.of_row _ ⟨"ADD_REG", 0x8004, 0xF00F⟩ (by decide) rfl (matches_xysWord _ 0x8 (by decide) x y 0x4 (by decide))

theorem TableRow.sub (x y : Reg) : TableRow.Statement (.sub x y) :=
  TableRow.of_row _ ⟨"SUB", 0x8005, 0xF00F⟩ (by decide) rfl (matches_xysWord _ 0x8 (by decide) x y 0x5 (by decide))

theorem TableRow.shr (x y : Reg) : TableRow.Statement (.shr x y) :=
  TableRow.of_row _ ⟨"SHR", 0x8006, 0xF00F⟩ (by decide) rfl (matches_xysWord _ 0x8 (by decide) x y 0x6 (by decide))

theorem TableRow.subn (x y : Reg) : TableRow.Statement (.subn x y) :=
  TableRow.of_row _ ⟨"SUBN", 0x8007, 0xF00F⟩ (by decide) rfl (matches_xysWord _ 0x8 (by decide) x y 0x7 (by decide))

theorem TableRow.shl (x y : Reg) : TableRow.Statement (.shl x y) :=
  TableRow.of_row _ ⟨"SHL", 0x800E, 0xF00F⟩ (by decide) rfl (matches_xysWord _ 0x8 (by decide) x y 0xE (by decide))

theorem TableRow.sneReg (x y : Reg) : TableRow.Statement (.sneReg x y) :=
  TableRow.of_row _ ⟨"SNE_REG", 0x9000, 0xF00F⟩ (by decide) rfl (matches_xysWord _ 0x9 (by decide) x y 0x0 (by decide))

theorem TableRow.ldI (nnn : Word) : TableRow.Statement (.ldI nnn) :=
  TableRow.of_row _ ⟨"LD_I", 0xA000, 0xF000⟩ (by decide) rfl (matches_nnnWord _ 0xA (by decide) nnn)

theorem TableRow.jpV0 (nnn : Word) : TableRow.Statement (.jpV0 nnn) :=
  TableRow.of_row _ ⟨"JP_V0", 0xB000, 0xF000⟩ (by decide) rfl (matches_nnnWord _ 0xB (by decide) nnn)

theorem TableRow.rnd (x : Reg) (kk : Byte) : TableRow.Statement (.rnd x kk) :=
  TableRow.of_row _ ⟨"RND", 0xC000, 0xF000⟩ (by decide) rfl (matches_xkkWord _ 0xC (by decide) x kk)

theorem TableRow.drw (x y : Reg) (n : Nat) : TableRow.Statement (.drw x y n) :=
  TableRow.of_row _ ⟨"DRW", 0xD000, 0xF000⟩ (by decide) rfl (matches_xynWord _ 0xD (by decide) x y n)

theorem TableRow.skp (x : Reg) : TableRow.Statement (.skp x) :=
  TableRow.of_row _ ⟨"SKP", 0xE09E, 0xF0FF⟩ (by decide) rfl (matches_xssWord _ 0xE (by decide) x 0x9E)

theorem TableRow.sknp (x : Reg) : TableRow.Statement (.sknp x) :=
  TableRow.of_row _ ⟨"SKNP", 0xE0A1, 0xF0FF⟩ (by decide) rfl (matches_xssWord _ 0xE (by decide) x 0xA1)

theorem TableRow.ldVxDt (x : Reg) : TableRow.Statement (.ldVxDt x) :=
  TableRow.of_row _ ⟨"LD_VX_DT", 0xF007, 0xF0FF⟩ (by decide) rfl (matches_xssWord _ 0xF (by decide) x 0x07)

theorem TableRow.ldVxK (x : Reg) : TableRow.Statement (.ldVxK x) :=
  TableRow.of_row _ ⟨"LD_VX_K", 0xF00A, 0xF0FF⟩ (by decide) rfl (matches_xssWord _ 0xF (by decide) x 0x0A)

theorem TableRow.ldDtVx (x : Reg) : TableRow.Statement (.ldDtVx x) :=
  TableRow.of_row _ ⟨"LD_DT_VX", 0xF015, 0xF0FF⟩ (by decide) rfl (matches_xssWord _ 0xF (by decide) x 0x15)

theorem TableRow.ldStVx (x : Reg) : TableRow.Statement (.ldStVx x) :=
  TableRow.of_row _ ⟨"LD_ST_VX", 0xF018, 0xF0FF⟩ (by decide) rfl (matches_xssWord _ 0xF (by decide) x 0x18)

theorem TableRow.addIVx (x : Reg) : TableRow.Statement (.addIVx x) :=
  TableRow.of_row _ ⟨"ADD_I_VX", 0xF01E, 0xF0FF⟩ (by decide) rfl (matches_xssWord _ 0xF (by decide) x 0x1E)

theorem TableRow.ldFVx (x : Reg) : TableRow.Statement (.ldFVx x) :=
  TableRow.of_row _ ⟨"LD_F_VX", 0xF029, 0xF0FF⟩ (by decide) rfl (matches_xssWord _ 0xF (by decide) x 0x29)

theorem TableRow.ldBVx (x : Reg) : TableRow.Statement (.ldBVx x) :=
  TableRow.of_row _ ⟨"LD_B_VX", 0xF033, 0xF0FF⟩ (by decide) rfl (matches_xssWord _ 0xF (by decide) x 0x33)

theorem TableRow.ldMemVx (x : Reg) : TableRow.Statement (.ldMemVx x) :=
  TableRow.of_row _ ⟨"LD_MEM_VX", 0xF055, 0xF0FF⟩ (by decide) rfl (matches_xssWord _ 0xF (by decide) x 0x55)

theorem TableRow.ldVxMem (x : Reg) : TableRow.Statement (.ldVxMem x) :=
  TableRow.of_row _ ⟨"LD_VX_MEM", 0xF065, 0xF0FF⟩ (by decide) rfl (matches_xssWord _ 0xF (by decide) x 0x65)

end Sys2Proof.Laws
end

