-- ==== Sys2Proof/Tests/Slice0.lean ====
section
/-!
SUPPORT. Tests: ill-formed terms, words written out from the spec's patterns, one-step vectors of the spec
(95_test_vectors.md), and for every statement with hypotheses a state and operands that meet them.
-/

namespace Sys2Proof.Tests

open Sys2Proof.Machine

/-! ## Helpers -/

/-- The reset state with some registers set. -/
def regs (l : List (Reg × Byte)) : State := l.foldl (fun s p => s.setV p.1 p.2) State.reset

/-- The same with `I` set and some bytes placed from `I` on. -/
def data (l : List (Reg × Byte)) (i : Word) (bytes : List Byte) : State :=
  { regs l with I := i, mem := Memory.writeBlock [] i.toNat bytes }

/-- A latch with keys 3 and 7 set. -/
def keys37 : Latch := ((Vector.replicate 16 false).set 3 true).set 7 true

/-- The state an answer goes on with. -/
def nextOf : Answer → Option State
  | .next t => some t
  | .fault _ => none
  | .refused _ => none

theorem eq_next_of_nextOf (a : Answer) (t : State) (h : nextOf a = some t) : a = .next t := by
  cases a <;> simp_all [nextOf]

/-- One step of the core on a word placed at `pc` (the convention of 95_test_vectors.md). -/
def after (w : Word) (s : State) : Option State := nextOf (coreStep (s.placeWord w))

/-- One step of the machine on a table word placed with `withFetchWord`. -/
def stepped (w : Nat) (s : State) : Option State := nextOf (step (s.withFetchWord 16 w))

/-! ## WellFormed refuses each ill-formed term (30_encoding.md R103) -/

theorem test_ill_formed_jp : (Instr.jp 0x1000).WellFormed = false := by decide
theorem test_ill_formed_call : (Instr.call 0x1000).WellFormed = false := by decide
theorem test_ill_formed_ld_i : (Instr.ldI 0xFFFF).WellFormed = false := by decide
theorem test_ill_formed_jp_v0 : (Instr.jpV0 0x1000).WellFormed = false := by decide
theorem test_ill_formed_drw : (Instr.drw 0 0 16).WellFormed = false := by decide
theorem test_well_formed_edges : (Instr.jp 0xFFF).WellFormed = true ∧ (Instr.drw 15 15 15).WellFormed = true := by
  decide

/-! ## Decoding, by words written out from the patterns of R105 -/

theorem test_decode_display : decode 0b0000_0000_1110_0000 = .ok .cls ∧
    decode 0b1101_0001_0010_1111 = .ok (.drw 1 2 15) := by decide
theorem test_decode_jumps : decode 0b0000_0000_1110_1110 = .ok .ret ∧
    decode 0b0001_0010_0011_0100 = .ok (.jp 0x234) ∧ decode 0b0010_1111_1111_1110 = .ok (.call 0xFFE) ∧
    decode 0b1011_0011_0000_0000 = .ok (.jpV0 0x300) := by decide
theorem test_decode_skips : decode 0b0011_1010_0100_0010 = .ok (.seImm 0xA 0x42) ∧
    decode 0b0100_0001_1111_1111 = .ok (.sneImm 1 0xFF) ∧ decode 0b0101_0001_0010_0000 = .ok (.seReg 1 2) ∧
    decode 0b1001_0011_0100_0000 = .ok (.sneReg 3 4) := by decide
theorem test_decode_loads : decode 0b0110_1010_0100_0010 = .ok (.ldImm 0xA 0x42) ∧
    decode 0b0111_0011_0000_0010 = .ok (.addImm 3 2) ∧ decode 0b1000_0001_0010_0000 = .ok (.ldReg 1 2) ∧
    decode 0b1100_0000_0000_1111 = .ok (.rnd 0 0x0F) := by decide
theorem test_decode_alu : decode 0b1000_0001_0010_0001 = .ok (.or 1 2) ∧
    decode 0b1000_0001_0010_0010 = .ok (.and 1 2) ∧ decode 0b1000_0001_0010_0011 = .ok (.xor 1 2) ∧
    decode 0b1000_0001_0010_0100 = .ok (.addReg 1 2) ∧ decode 0b1000_0001_0010_0101 = .ok (.sub 1 2) ∧
    decode 0b1000_0001_0010_0110 = .ok (.shr 1 2) ∧ decode 0b1000_0001_0010_0111 = .ok (.subn 1 2) ∧
    decode 0b1000_1111_1110_1110 = .ok (.shl 15 14) := by decide
theorem test_decode_index : decode 0b1010_0010_1111_0000 = .ok (.ldI 0x2F0) ∧
    decode 0b1111_0100_0001_1110 = .ok (.addIVx 4) ∧ decode 0b1111_0101_0010_1001 = .ok (.ldFVx 5) ∧
    decode 0b1111_0110_0011_0011 = .ok (.ldBVx 6) ∧ decode 0b1111_0111_0101_0101 = .ok (.ldMemVx 7) ∧
    decode 0b1111_1000_0110_0101 = .ok (.ldVxMem 8) := by decide
theorem test_decode_keys_timers : decode 0b1110_0001_1001_1110 = .ok (.skp 1) ∧
    decode 0b1110_0010_1010_0001 = .ok (.sknp 2) ∧ decode 0b1111_0011_0000_0111 = .ok (.ldVxDt 3) ∧
    decode 0b1111_0010_0000_1010 = .ok (.ldVxK 2) ∧ decode 0b1111_0000_0001_0101 = .ok (.ldDtVx 0) ∧
    decode 0b1111_0001_0001_1000 = .ok (.ldStVx 1) := by decide
/-- T4 to T7, with 0nnn of R108. -/
theorem test_decode_invalid : ([0x5121, 0x0123, 0x01E0, 0x00E1, 0x8008, 0x800F, 0x9001, 0xE09F,
    0xF000, 0xF0FF, 0xFFFF, 0x0000].all fun w => decide (decode w = .error (.invalidOpcode w))) = true := by
  decide
theorem test_decode_bytes : decodeBytes [0x12, 0x34, 0x56] = .ok (.jp 0x234, [0x56]) ∧
    decodeBytes [0x12] = .error .tooShort ∧ decodeTableWord 16 0x8126 = some (.shr 1 2) := by decide

/-! ## One step (95_test_vectors.md, by the vector's name) -/

/-- T1: an odd `pc`. -/
theorem test_T1 : (after 0x6001 { State.reset with pc := 0x201 }).map (fun t => (t.getV 0, t.pc)) =
    some (1, 0x203) := by decide
/-- T3: the word would lie at 0xFFF and 0x1000. -/
theorem test_T3 : (nextOf (coreStep { State.reset with pc := 0xFFF })).map (fun t => (t.run, t.haltRecord, t.pc)) =
    some (.halted, some ⟨.addressFault 0x1000, 0xFFF, none⟩, 0xFFF) := by decide
theorem test_T4 : (after 0x5121 State.reset).map (fun t => (t.reports, t.pc, t.run)) =
    some ([⟨0x200, 0x5121⟩], 0x202, .running) := by decide

theorem test_C1 : (after 0x00EE State.reset).map (fun t => (t.haltRecord, t.pc)) =
    some (some ⟨.stackUnderflow, 0x200, some 0x00EE⟩, 0x200) := by decide
theorem test_C2 : (after 0x00EE { State.reset with stack := [0x206], pc := 0x300 }).map
    (fun t => (t.pc, t.stack)) = some (0x206, []) := by decide
theorem test_C3 : (after 0x2300 { State.reset with pc := 0x204 }).map (fun t => (t.pc, t.stack)) =
    some (0x300, [0x206]) := by decide
theorem test_C4 : (after 0x2300 { State.reset with stack := List.replicate 16 0x202 }).map
    (fun t => (t.haltRecord, t.stack.length, t.pc)) =
    some (some ⟨.stackOverflow, 0x200, some 0x2300⟩, 16, 0x200) := by decide
theorem test_C5 : (after 0x1201 State.reset).map (·.pc) = some 0x201 := by decide
theorem test_C7_C8 : (after 0x3042 (regs [(0, 0x42)])).map (·.pc) = some 0x204 ∧
    (after 0x3042 (regs [(0, 0x41)])).map (·.pc) = some 0x202 := by decide
theorem test_C9_C10 : (after 0x4042 (regs [(0, 0x42)])).map (·.pc) = some 0x202 ∧
    (after 0x4042 (regs [(0, 0x41)])).map (·.pc) = some 0x204 := by decide
theorem test_C11_C12 : (after 0x5120 (regs [(1, 9), (2, 9)])).map (·.pc) = some 0x204 ∧
    (after 0x5120 (regs [(1, 9), (2, 8)])).map (·.pc) = some 0x202 := by decide
theorem test_C13_C14 : (after 0x9120 (regs [(1, 9), (2, 9)])).map (·.pc) = some 0x202 ∧
    (after 0x9120 (regs [(1, 9), (2, 8)])).map (·.pc) = some 0x204 := by decide
theorem test_C17 : (after 0xBFFF (regs [(0, 0xFF)])).map (·.pc) = some 0x10FE := by decide
theorem test_C18 : (after 0x3000 { State.reset with pc := 0xFFC }).map (·.pc) = some 0x1000 := by decide

theorem test_S1 : (after 0x6A42 State.reset).map (fun t => (t.getV 0xA, t.pc)) = some (0x42, 0x202) := by
  decide
theorem test_S2 : (after 0x7302 (regs [(3, 0xFF)])).map (fun t => (t.getV 3, t.getV VF)) = some (1, 0) := by
  decide
theorem test_S3 : (after 0x8014 (regs [(0, 0xFF), (1, 2)])).map (fun t => (t.getV 0, t.getV VF)) =
    some (1, 1) := by decide
theorem test_S6 : (after 0x8015 (regs [(0, 3), (1, 5)])).map (fun t => (t.getV 0, t.getV VF)) =
    some (0xFE, 0) := by decide
theorem test_S7_shr : (after 0x8016 (regs [(0, 0xAA), (1, 5)])).map (fun t => (t.getV 0, t.getV VF)) =
    some (2, 1) := by decide
theorem test_S7_shl : (after 0x801E (regs [(1, 0x81)])).map (fun t => (t.getV 0, t.getV VF)) =
    some (2, 1) := by decide
theorem test_A3 : (after 0x8F04 (regs [(VF, 0xFF), (0, 1)])).map (·.getV VF) = some 1 := by decide
theorem test_A7 : (after 0x8F15 (regs [(VF, 3), (1, 5)])).map (·.getV VF) = some 0 := by decide
theorem test_A8 : (after 0x8017 (regs [(0, 3), (1, 5)])).map (fun t => (t.getV 0, t.getV VF)) =
    some (2, 1) := by decide
theorem test_A10 : (after 0x8017 (regs [(0, 4), (1, 4)])).map (fun t => (t.getV 0, t.getV VF)) =
    some (0, 1) := by decide
theorem test_A13 : (after 0x8FF6 (regs [(VF, 3)])).map (·.getV VF) = some 1 := by decide
theorem test_A14 : (after 0x8FFE (regs [(VF, 0x80)])).map (·.getV VF) = some 1 := by decide
theorem test_A15 : (after 0x8011 (regs [(0, 0xF0), (1, 0x0F), (VF, 1)])).map
    (fun t => (t.getV 0, t.getV VF)) = some (0xFF, 0) := by decide
theorem test_A16 : (after 0x8012 (regs [(0, 0xF0), (1, 0x3C), (VF, 1)])).map
    (fun t => (t.getV 0, t.getV VF)) = some (0x30, 0) := by decide
theorem test_A17 : (after 0x8013 (regs [(0, 0xFF), (1, 0x0F), (VF, 1)])).map
    (fun t => (t.getV 0, t.getV VF)) = some (0xF0, 0) := by decide
theorem test_A18 : (after 0x8F11 (regs [(VF, 0x12), (1, 1)])).map (·.getV VF) = some 0 := by decide
theorem test_A20 : (after 0x7F01 (regs [(VF, 0xFF)])).map (·.getV VF) = some 0 := by decide
theorem test_A22 : (after 0x8120 (regs [(2, 0x99)])).map (fun t => (t.getV 1, t.getV 2)) =
    some (0x99, 0x99) := by decide
theorem test_A23 : (after 0xC00F { State.reset with env := ⟨[], [0xAB, 0x11], 0, 0⟩ }).map
    (fun t => (t.getV 0, t.env.randoms)) = some (0x0B, [0x11]) := by decide
/-- A mask of 0 gives 0 whatever the free byte is (A24). -/
theorem test_A24 : (after 0xC000 (regs [(0, 7)])).map (·.pc) = some 0x202 := by decide

theorem test_M1 : (after 0xA2F0 State.reset).map (fun t => (t.I, t.pc)) = some (0x2F0, 0x202) := by decide
theorem test_M3 : (after 0xF11E { regs [(1, 1)] with I := 0xFFF }).map (·.I) = some 0 := by decide
theorem test_M4 : (after 0xFF1E { regs [(VF, 0x80)] with I := 0x010 }).map (fun t => (t.I, t.getV VF)) =
    some (0x090, 0x80) := by decide
theorem test_M6 : (after 0xF529 (regs [(5, 0x0F)])).map (·.I) = some 0x04B := by decide
theorem test_M7 : (after 0xF529 (regs [(5, 0x10)])).map (fun t => (t.haltRecord, t.I)) =
    some (some ⟨.operandRange 0x10, 0x200, some 0xF529⟩, 0) := by decide
theorem test_M10 : (after 0xF033 { regs [(0, 0xFE)] with I := 0x300 }).map
    (fun t => (t.mem.readBlock 0x2FF 5, t.I)) = some ([0, 2, 5, 4, 0], 0x300) := by decide
theorem test_M12 : (after 0xF033 { regs [(0, 7)] with I := 0xFFE }).map
    (fun t => (t.haltRecord, t.mem.readBlock 0xFFE 2)) =
    some (some ⟨.addressFault 0x1000, 0x200, some 0xF033⟩, [0, 0]) := by decide
theorem test_M13 : (after 0xF055 { regs [(0, 0xAB)] with I := 0xFFF }).map
    (fun t => (t.mem.read 0xFFF, t.I)) = some (0xAB, 0) := by decide
theorem test_M18 : (after 0xF155 { regs [(0, 1), (1, 2), (2, 3)] with I := 0x400 }).map
    (fun t => (t.mem.readBlock 0x400 3, t.I)) = some ([1, 2, 0], 0x402) := by decide
theorem test_M16 : (after 0xF265 (data [(3, 9)] 0x300 [2, 5, 4, 1])).map
    (fun t => (t.getV 0, t.getV 1, t.getV 2, t.getV 3, t.I)) = some (2, 5, 4, 9, 0x303) := by decide
theorem test_M17 : (after 0xF465 State.reset).map (fun t => (t.getV 0, t.getV 1, t.getV 4, t.I)) =
    some (0xF0, 0x90, 0xF0, 5) := by decide

/-- D9, with one pixel set. -/
theorem test_D9 : (after 0x00E0 { regs [(VF, 7)] with disp := Display.clear.flip 5 5 }).map
    (fun t => (t.disp.pixel 5 5, t.getV VF, t.pc)) = some (false, 7, 0x202) := by decide
/-- S9: wrap in x. -/
theorem test_S9 : (after 0xD011 (data [(0, 60), (1, 0)] 0x300 [0xFF])).map (fun t =>
    ([59, 60, 61, 62, 63, 0, 1, 2, 3, 4].map fun x => t.disp.pixel x 0, t.getV VF)) =
    some ([false, true, true, true, true, true, true, true, true, false], 0) := by decide
/-- D6 and D7: coordinates from the old `VF`, which then takes the collision. -/
theorem test_D6_D7 : (after 0xDFF1 (data [(VF, 2)] 0x300 [0x80])).map
      (fun t => (t.disp.pixel 2 2, t.disp.pixel 9 2, t.getV VF)) = some (true, false, 0) ∧
    (after 0xDFF1 { data [(VF, 2)] 0x300 [0x80] with disp := Display.clear.flip 2 2 }).map
      (fun t => (t.disp.pixel 2 2, t.getV VF)) = some (false, 1) := by decide

theorem test_K1_K2 : (after 0xE19E { regs [(1, 5)] with keys := (Vector.replicate 16 false).set 5 true }).map
      (·.pc) = some 0x204 ∧
    (after 0xE19E { regs [(1, 4)] with keys := (Vector.replicate 16 false).set 5 true }).map
      (·.pc) = some 0x202 := by decide
theorem test_K3_K4 : (after 0xE1A1 { regs [(1, 5)] with keys := (Vector.replicate 16 false).set 5 true }).map
      (·.pc) = some 0x202 ∧
    (after 0xE1A1 { regs [(1, 4)] with keys := (Vector.replicate 16 false).set 5 true }).map
      (·.pc) = some 0x204 := by decide
theorem test_K5 : (after 0xE19E (regs [(1, 0x15)])).map (·.haltRecord) =
    some (some ⟨.operandRange 0x15, 0x200, some 0xE19E⟩) := by decide
theorem test_K6 : (after 0xF20A { State.reset with
    keys := ((Vector.replicate 16 false).set 3 true).set 7 true }).map
    (fun t => (t.getV 2, t.pc)) = some (3, 0x202) := by decide
/-- K7, as a step of the machine on a queued latch value. -/
theorem test_K7 : (stepped 0xF20A { State.reset with env := ⟨[Vector.replicate 16 false], [], 0, 0⟩ }).map
    (fun t => (t.getV 2, t.pc, t.batch, t.run)) = some (0, 0x200, 0, .running) := by decide
theorem test_K8 : (after 0xF307 { State.reset with DT := 0x3C }).map (·.getV 3) = some 0x3C := by decide
theorem test_K9 : (after 0xF015 (regs [(0, 3)])).map (fun t => (t.DT, t.ST)) = some (3, 0) := by decide
theorem test_K10 : (after 0xF118 (regs [(1, 0x10)])).map (fun t => (t.ST, t.DT)) = some (0x10, 0) := by
  decide

/-! ## The step of the machine and the host's actions -/

/-- H2: the timer decays before the first step of the tick, and the batch has 7 steps left. -/
theorem test_H2 : (stepped 0xF007 { State.reset with DT := 5 }).map (fun t => (t.getV 0, t.DT, t.batch)) =
    some (4, 4, 7) := by decide
/-- The second step of a tick does not decay the timer. -/
theorem test_mid_tick : (stepped 0xF007 { State.reset with DT := 5, batch := 3 }).map
    (fun t => (t.getV 0, t.DT, t.batch)) = some (5, 5, 2) := by decide
/-- The first step of a tick reads the latch value the host has queued for it (10_state.md R52). -/
theorem test_tick_latch : (stepped 0xE19E { regs [(1, 7)] with env := ⟨[keys37], [], 0, 0⟩ }).map
    (fun t => (t.pc, t.env.latches)) = some (0x204, []) := by decide
/-- A tick in Halted does not end the time for the load (log 17). -/
theorem test_halted_tick_keeps_load : (nextOf (tick keys37 [1] State.reset.quit)).map (·.loadOpen) =
    some true := by decide
/-- The host reads between ticks, and not inside one (R89). -/
theorem test_observe : (match observe { State.reset with ST := 9 } with
      | .next o => some (o.soundTimer, o.halted)
      | .fault _ => none
      | .refused _ => none) = some (9, false) ∧
    (match observe { State.reset with batch := 1 } with
      | .refused r => some r
      | .next _ => none
      | .fault _ => none) = some .midTick := by decide
theorem test_H3 : nextOf (step { State.reset with run := .halted, DT := 5 }) =
    some { State.reset with run := .halted, DT := 5 } := by decide
theorem test_H5 : (nextOf (step { State.reset with pc := 0x1000, DT := 3 })).map
    (fun t => (t.DT, t.pc, t.batch, t.run)) = some (2, 0x1000, 0, .running) := by decide
theorem test_H7 : nextOf (act .reset (regs [(0, 0x0B)])) = some State.reset := by decide
theorem test_H8 : nextOf (act .quit State.reset) = some { State.reset with run := .halted } := by decide

/-! ## Witnesses: a state and operands that meet the hypotheses of each statement

Each theorem is named after the statement; an answer that goes on is shown by the state it goes on with.
-/

/-- A full call stack. -/
def full : State := { State.reset with stack := List.replicate 16 0x202 }

/-- The answer is a next state with the property. -/
def goesOn (a : Answer) (p : State → Bool) : Bool := ((nextOf a).map p).getD false

theorem exists_of_goesOn (a : Answer) (p : State → Bool) (h : goesOn a p = true) :
    ∃ t, a = .next t ∧ p t = true := by
  cases a <;> simp_all [goesOn, nextOf]

theorem placed_inv : (State.reset.withFetchWord 16 0x6001).Inv :=
  ⟨by decide, by decide, by decide, by decide, fun r h => (by cases h), fun h => absurd rfl h,
    fun h => (by cases h), by decide⟩

/-- Reset parameters of another machine: `I` at its highest value and every glyph byte 0xAA. -/
def otherParams : ResetParams := ⟨{ ResetRegs.zero with I := 0xFFF }, Vector.replicate 80 0xAA⟩

theorem witness_ResetStateIsTheTable : State.reset.mem.read 0x04F = 0x80 ∧ State.reset.mem.read 0x050 = 0 ∧
    State.reset.mem.read 0xFFF = 0 ∧ (State.resetFor otherParams).mem.read 0x04F = 0xAA ∧
    (State.resetFor otherParams).mem.read 0x050 = 0 := by decide

theorem witness_ResetSatisfiesInvariant : otherParams.regs.I.toNat ≤ 0xFFF := by decide

theorem witness_StepKeepsInvariant : (State.reset.withFetchWord 16 0x6001).Inv ∧
    ∃ t, step (State.reset.withFetchWord 16 0x6001) = .next t ∧ (t.getV 0 == 1) = true :=
  ⟨placed_inv, exists_of_goesOn _ _ (by decide)⟩

theorem witness_HostActionsKeepInvariant :
    let s := State.reset.withFetchWord 16 0x6001
    let act := actWith otherParams
    otherParams.regs.I.toNat ≤ 0xFFF ∧ s.Inv ∧ (∃ t, act (.tick keys37 [1]) s = .next t ∧ (t.pc == 0x210) = true) ∧
    (∃ t, act (.load [0x60, 0x02]) s = .next t ∧ (t.mem.read 0x201 == 2) = true) ∧
    (∃ t, act .quit s = .next t ∧ (t.pc == 0x200) = true) ∧
    ∃ t, act .reset s = .next t ∧ (t.mem.readBlock 0x1FF 2 == [0, 0]) = true :=
  ⟨by decide, placed_inv, exists_of_goesOn _ _ (by decide), exists_of_goesOn _ _ (by decide),
    exists_of_goesOn _ _ (by decide), exists_of_goesOn _ _ (by decide)⟩

/-- The last word of memory, in the middle of a tick and between ticks. -/
theorem witness_StepRunsDecodedInstruction : ∀ b ∈ [0, 3],
    let s : State := { State.reset with pc := 0xFFE, batch := b, mem := [(0xFFE, 0x60), (0xFFF, 0x01)] }
    s.run = .running ∧ s.pc.toNat < 0xFFF ∧
      decode (wordOfBytes (s.mem.read s.pc.toNat) (s.mem.read (s.pc.toNat + 1))) = .ok (.ldImm 0 1) := by
  decide

theorem witness_FetchReadsBigEndian : ({ State.reset with pc := 0xFFE } : State).pc.toNat < 0xFFF := by decide

theorem witness_FetchFaultHalts : 0xFFF ≤ ({ State.reset with pc := 0x1000 } : State).pc.toNat ∧
    ({ State.reset with pc := 0xFFF } : State).run = .running ∧
    ({ State.reset with pc := 0xFFF } : State).pc.toNat = 0xFFF := by decide

theorem witness_InvalidWordIsReported : fetch (State.reset.withFetchWord 16 0x5121) = .ok 0x5121 ∧
    decode 0x5121 = .error (.invalidOpcode 0x5121) ∧
    (State.reset.withFetchWord 16 0x5121).run = .running := by decide

theorem witness_EndBoundTakesNoStep : ∀ b ∈ [0, 1], ∀ d ∈ [0, 3],
    let s : State := { State.reset with pc := 0x1000, batch := b, DT := d }
    s.run = .running ∧ 0x1000 ≤ s.pc.toNat := by decide

theorem witness_HaltedMachineStaysPut : State.reset.quit.run = .halted := by decide

/-- A queued latch value and none; an instruction at 0xFFE between ticks and inside one
(`witness_StepRunsDecodedInstruction` has the words). -/
theorem witness_TickDecaysTimersOnce :
    ({ State.reset with env := ⟨[keys37], [], 0, 0⟩ } : State).env.latches = keys37 :: [] ∧
    State.reset.env.latches = [] ∧ State.reset.run = .running ∧ State.reset.batch = 0 ∧
    ({ State.reset with batch := 1 } : State).batch ≠ 0 ∧
    (let s : State := { State.reset with pc := 0xFFE, mem := [(0xFFE, 0x60), (0xFFF, 0x01)] }
     s.pc.toNat < 0xFFF ∧
      decode (wordOfBytes (s.mem.read s.pc.toNat) (s.mem.read (s.pc.toNat + 1))) = .ok (.ldImm 0 1)) := by
  decide

theorem witness_TickIsAtMostEightSteps : State.reset.run = .running ∧ State.reset.batch = 0 := by decide

theorem witness_FatalErrorIsPrecise : State.reset.run = .running ∧
    ∃ t, exec .ret State.reset = .next t ∧ (decide (t.run = .halted)) = true :=
  ⟨rfl, exists_of_goesOn _ _ (by decide)⟩

/-- One instruction for each clause and each way into it. -/
theorem witness_FatalErrorsOnlyWhereListed : ∀ p ∈ ([
      (.drw 0 1 15, { State.reset with I := 0xFF2 }, .addressFault 0x1000),
      (.ldBVx 0, { State.reset with I := 0xFFE }, .addressFault 0x1000),
      (.ldMemVx 15, { State.reset with I := 0xFF1 }, .addressFault 0x1000),
      (.ldVxMem 0, { State.reset with I := 0x1000 }, .addressFault 0x1000),
      (.call 0x300, full, .stackOverflow), (.ret, State.reset, .stackUnderflow),
      (.skp 1, regs [(1, 0x10)], .operandRange 0x10), (.sknp 1, regs [(1, 0xFF)], .operandRange 0xFF),
      (.ldFVx 1, regs [(1, 0x10)], .operandRange 0x10)] : List (Instr × State × FatalError)),
    p.2.1.haltRecord = none ∧ ∃ t, exec p.1 p.2.1 = .next t ∧
      (decide (t.haltRecord = some ⟨p.2.2, 0x200, some (encode p.1)⟩)) = true := by
  intro p hp
  simp only [List.mem_cons, List.not_mem_nil, or_false] at hp
  rcases hp with rfl | rfl | rfl | rfl | rfl | rfl | rfl | rfl | rfl <;>
    exact ⟨rfl, exists_of_goesOn _ _ (by decide)⟩

theorem witness_OnlyKeyWaitBlocks : ∃ t, exec (.ldVxK 2) { State.reset with batch := 3 } = .next t ∧
    (decide (t.run = .running) && decide (t.batch ≠ 3)) = true :=
  exists_of_goesOn _ _ (by decide)

theorem witness_LatchReadOnlyByKeyInstructions : ¬ ReadsLatch .cls ∧
    ∃ t, exec .cls State.reset = .next t ∧ (t.pc == 0x202) = true :=
  ⟨by simp [ReadsLatch], exists_of_goesOn _ _ (by decide)⟩

theorem witness_RandomReadOnlyByRnd : (¬ ∃ x kk, Instr.skp 0 = .rnd x kk) ∧
    ∃ t, exec (.skp 0) State.reset = .next t ∧ (t.pc == 0x202) = true :=
  ⟨by simp, exists_of_goesOn _ _ (by decide)⟩

/-- A result register, a flag, and the last register loaded from memory. -/
theorem witness_RegistersChangedOnlyByTheirWriters : ∀ p ∈ ([
      (.ldImm 3 1, State.reset, 3), (.subn 0 1, State.reset, VF),
      (.drw 0 1 1, { State.reset with disp := Display.clear.flip 0 0 }, VF),
      (.ldVxMem 3, State.reset, 3)] : List (Instr × State × Reg)),
    ∃ t, exec p.1 p.2.1 = .next t ∧ (decide (t.getV p.2.2 ≠ p.2.1.getV p.2.2)) = true := by
  intro p hp
  simp only [List.mem_cons, List.not_mem_nil, or_false] at hp
  rcases hp with rfl | rfl | rfl | rfl <;> exact exists_of_goesOn _ _ (by decide)

/-- The last cell each of the two can store to. -/
theorem witness_MemoryChangedOnlyByStores : (regs [(0, 7), (1, 9)]).mem.wf = true ∧
    (∃ t, exec (.ldBVx 0) { regs [(0, 7), (1, 9)] with I := 0xFFD } = .next t ∧
      (decide (t.mem.read 0xFFF ≠ 0)) = true) ∧
    ∃ t, exec (.ldMemVx 1) { regs [(0, 7), (1, 9)] with I := 0xFFE } = .next t ∧
      (decide (t.mem.read 0xFFF ≠ 0)) = true :=
  ⟨by decide, exists_of_goesOn _ _ (by decide), exists_of_goesOn _ _ (by decide)⟩

theorem witness_StateChangedOnlyByItsWriters :
    (∃ t, exec (.ldI 0x2F0) State.reset = .next t ∧ (decide (t.I ≠ 0)) = true) ∧
    (∃ t, exec (.call 0x300) State.reset = .next t ∧ (decide (t.stack ≠ [])) = true) ∧
    (∃ t, exec (.ldDtVx 0) (regs [(0, 3)]) = .next t ∧ (decide (t.DT ≠ 0)) = true) ∧
    (∃ t, exec (.ldStVx 0) (regs [(0, 3)]) = .next t ∧ (decide (t.ST ≠ 0)) = true) ∧
    (∃ t, exec (.drw 0 1 1) State.reset = .next t ∧ (t.disp.pixel 0 0) = true) ∧
    ∃ t, exec (.rnd 0 1) State.reset = .next t ∧ (decide (t.env.draws ≠ 0)) = true :=
  ⟨exists_of_goesOn _ _ (by decide), exists_of_goesOn _ _ (by decide), exists_of_goesOn _ _ (by decide),
    exists_of_goesOn _ _ (by decide), exists_of_goesOn _ _ (by decide), exists_of_goesOn _ _ (by decide)⟩

theorem witness_ReportsOnlyGrowByInvalidWords :
    ∃ t, step (State.reset.withFetchWord 16 0x5121) = .next t ∧ (decide (t.reports ≠ [])) = true :=
  exists_of_goesOn _ _ (by decide)

theorem witness_DecodeOfEncode : (Instr.drw 15 15 15).WellFormed = true ∧ (Instr.jp 0xFFF).WellFormed = true ∧
    (Instr.ldVxMem 15).WellFormed = true := by decide

theorem witness_EncodeOfDecode : decode 0xD12F = .ok (.drw 1 2 15) := by decide

theorem witness_OpcodeMapDecidesDecoding :
    ∃ r ∈ opcodeTable, r.Matches 0xE09E = true ∧ r.mnemonic = "SKP" := by
  refine ⟨⟨"SKP", 0xE09E, 0xF0FF⟩, ?_, by decide, rfl⟩
  simp [opcodeTable]

theorem witness_CallPushesReturnAddress :
    ({ State.reset with stack := List.replicate 15 0x202 } : State).stack.length < 16 ∧
    16 ≤ full.stack.length := by decide

theorem witness_ReturnPopsStack :
    ({ State.reset with stack := [0x206] } : State).stack = [] ++ [0x206] ∧ State.reset.stack = [] := by
  decide

theorem witness_CallThenReturnComesBack : State.reset.stack.length < 16 ∧
    exec (.call 0x300) State.reset = .next { State.reset with stack := [0x202], pc := 0x300 } ∧
    exec .ret { State.reset with stack := [0x202], pc := 0x310 } = .next { State.reset with pc := 0x202 } :=
  ⟨by decide, eq_next_of_nextOf _ _ (by decide), eq_next_of_nextOf _ _ (by decide)⟩

/-- The hypothesis of LogicClearsFlag, AddSetsCarry, SubtractSetsNotBorrow and ShiftTakesVy. -/
theorem witness_LogicClearsFlag : (0 : Reg) ≠ VF ∧ (14 : Reg) ≠ VF := by decide
theorem witness_AddSetsCarry : (0 : Reg) ≠ VF ∧ (14 : Reg) ≠ VF := by decide
theorem witness_SubtractSetsNotBorrow : (0 : Reg) ≠ VF ∧ (14 : Reg) ≠ VF := by decide
theorem witness_ShiftTakesVy : (0 : Reg) ≠ VF ∧ (14 : Reg) ≠ VF := by decide

/-- The first and the last entry of the statement's list, with `VF = 3` and `V1 = 0x81`. -/
theorem witness_FlagWinsInVF :
    let s := regs [(VF, 3), (1, 0x81)]
    let vf := (s.getV VF).toNat
    let vy := (s.getV 1).toNat
    let l := [(Instr.or VF 1, 0), (.and VF 1, 0), (.xor VF 1, 0),
      (.addReg VF 1, if vf + vy > 255 then 1 else 0), (.sub VF 1, if vf ≥ vy then 1 else 0),
      (.shr VF 1, vy % 2), (.subn VF 1, if vy ≥ vf then 1 else 0), (.shl VF 1, vy / 128)]
    (Instr.or VF 1, 0) ∈ l ∧ (Instr.shl VF 1, 1) ∈ l := by decide

theorem witness_RandomByteIsMasked :
    ({ State.reset with env := ⟨[], [0xAB, 1], 0, 0⟩ } : State).env.randoms = 0xAB :: [1] ∧
    State.reset.env.randoms = [] := by decide

theorem witness_GlyphAddressOfDigit : ((regs [(5, 0x0F)]).getV 5).toNat ≤ 0xF ∧
    0xF < ((regs [(5, 0x10)]).getV 5).toNat := by decide

theorem witness_StoreDecimalDigits : State.reset.mem.wf = true ∧
    ({ State.reset with I := 0xFFD } : State).I.toNat + 2 ≤ 0xFFF ∧
    ({ State.reset with I := 0xFFE } : State).I.toNat + 2 > 0xFFF := by decide

theorem witness_StoreRegisters : State.reset.mem.wf = true ∧
    ({ State.reset with I := 0xFF0 } : State).I.toNat + (15 : Reg).val ≤ 0xFFF ∧
    ({ State.reset with I := 0xFF1 } : State).I.toNat + (15 : Reg).val > 0xFFF := by decide

theorem witness_LoadRegisters :
    ({ State.reset with I := 0xFF0 } : State).I.toNat + (15 : Reg).val ≤ 0xFFF ∧
    ({ State.reset with I := 0xFF1 } : State).I.toNat + (15 : Reg).val > 0xFFF := by decide

/-- No rows at an address beyond memory, and 15 rows that end in the last cell. -/
theorem witness_DrawXorsPixels : ((0 : BitVec 4).toNat = 0) ∧
    ({ State.reset with I := 0xFF1 } : State).I.toNat + (15 : BitVec 4).toNat ≤ 0x1000 := by decide

/-- A sprite row drawn twice on a clear display. -/
theorem witness_DrawTwiceRestores :
    let s := data [(0, 60)] 0x300 [0xFF]
    (0 : Reg) ≠ VF ∧ (1 : Reg) ≠ VF ∧ s.I.toNat + 1 ≤ 0x1000 ∧
    ∃ t, exec (.drw 0 1 1) s = .next t ∧ (goesOn (exec (.drw 0 1 1) t) fun u => u.getV VF == 1) = true :=
  ⟨by decide, by decide, by decide, exists_of_goesOn _ _ (by decide)⟩

/-- A display on which every covered pixel is set: the second draw has no collision. -/
theorem test_draw_twice_on_set_pixels :
    (after 0xD011 { data [] 0x300 [0x80] with disp := Display.clear.flip 0 0 }).map (fun t => t.getV VF) =
      some 1 ∧
    (after 0xD011 { data [(VF, 1)] 0x300 [0x80] with disp := Display.clear }).map
      (fun t => (t.getV VF, t.disp.pixel 0 0)) = some (0, true) := by decide

theorem witness_SkipOnKey : ((regs [(1, 0x0F)]).getV 1).toNat = (15 : Fin 16).val ∧
    0xF < ((regs [(1, 0x10)]).getV 1).toNat := by decide

theorem witness_WaitForKey : keys37[(3 : Fin 16)] = true ∧ (∀ j : Fin 16, j < 3 → keys37[j] = false) ∧
    ∀ k : Fin 16, State.reset.keys[k] = false := by decide

theorem witness_BlockCheckIsExact : 1 ≤ 1 ∧ checkRange 0xFFF 1 = .ok () ∧
    checkRange 0xFFF 2 = .error (.addressFault 0x1000) := by decide

theorem witness_BlockBeyondMemoryHalts : 1 ≤ 15 ∧
    ({ State.reset with I := 0xFF2 } : State).I.toNat + 15 > 0x1000 ∧
    ({ State.reset with I := 0xFFE } : State).I.toNat + 3 > 0x1000 ∧
    ({ State.reset with I := 0xFF1 } : State).I.toNat + (15 : Reg).val + 1 > 0x1000 := by decide

theorem witness_ParameterPoliciesReduce : (0x0F : Byte).toNat ≤ 0xF ∧ 0xF < (0x10 : Byte).toNat := by decide

theorem witness_LoadCopiesProgram : State.reset.mem.wf = true ∧ State.reset.loadOpen = true ∧
    (List.replicate 0xE00 (0 : Byte)).length ≤ 0xE00 ∧ 0xE00 < (List.replicate 0xE01 (0 : Byte)).length :=
  ⟨rfl, rfl, by rw [List.length_replicate], by rw [List.length_replicate]; decide⟩

theorem witness_HostActsBetweenTicks : State.reset.batch = 0 ∧
    ({ State.reset with loadOpen := false } : State).loadOpen = false ∧
    ({ State.reset with batch := 1 } : State).batch ≠ 0 ∧
    ∃ t, actWith otherParams (.load [0x60, 0x01]) State.reset = .next t ∧ (t.mem.read 0x201 == 1) = true :=
  ⟨rfl, rfl, by decide, exists_of_goesOn _ _ (by decide)⟩

end Sys2Proof.Tests
end

/-!
The statements about the state: what every step keeps, and which instruction writes which part of the
state (spec 10_state.md R34 to R53, R60).
-/

namespace Sys2Proof.Machine

/-! ## Frames -/

theorem Field.Same.trans {f : Field} {s t u : State} (h : f.Same s t) (h' : f.Same t u) : f.Same s u := by
  cases f
  case mem => exact fun a => (h' a).trans (h a)
  all_goals exact Eq.trans h' h

/-- Two updates in a row write what either writes. -/
theorem FrameOutside.trans {c c' : List Field} {s t u : State} (h : FrameOutside c s t)
    (h' : FrameOutside c' t u) : FrameOutside (c ++ c') s u := fun f hf =>
  (h f fun hc => hf (List.mem_append_left c' hc)).trans (h' f fun hc => hf (List.mem_append_right c hc))

section
variable (s : State)

theorem setV_frame (x : Reg) (b : Byte) : FrameOutside [.V] s (s.setV x b) := by
  intro f hf
  cases f <;> simp [Field.Same] at hf ⊢

theorem setWithFlag_frame (x : Reg) (r f : Byte) : FrameOutside [.V] s (s.setWithFlag x r f) := by
  intro f hf
  cases f <;> simp [Field.Same] at hf ⊢

theorem loadRegs_frame (x : Reg) (a : Nat) : FrameOutside [.V] s (s.loadRegs x a) := by
  intro f hf
  cases f <;> simp [Field.Same] at hf ⊢

theorem setI_frame (v : Word) : FrameOutside [.I] s (s.setI v) := by
  intro f hf
  cases f <;> simp [Field.Same] at hf ⊢

theorem advance_frame : FrameOutside [.pc] s s.advance := by
  intro f hf
  cases f <;> simp [Field.Same] at hf ⊢

theorem skipWhen_frame (c : Bool) : FrameOutside [.pc] s (s.skipWhen c) := by
  intro f hf
  cases f <;> simp [Field.Same] at hf ⊢

theorem jump_frame (a : Word) : FrameOutside [.pc] s (s.jump a) := by
  intro f hf
  cases f <;> simp [Field.Same] at hf ⊢

theorem drawn_frame (b : Blit) : FrameOutside [.disp, .V, .pc] s (s.drawn b) := by
  intro f hf
  cases f <;> simp [Field.Same] at hf ⊢

theorem endBatch_frame : FrameOutside [.batch] s s.endBatch := by
  intro f hf
  cases f <;> simp [Field.Same] at hf ⊢

theorem takeRandom_frame : FrameOutside [.env] s s.takeRandom.2 := by
  intro f hf
  cases f <;> simp [Field.Same] at hf ⊢

theorem withStack_frame (l : List Word) : FrameOutside [.stack] s { s with stack := l } := by
  intro f hf
  cases f <;> simp [Field.Same] at hf ⊢

theorem withMem_frame (m : Memory) : FrameOutside [.mem] s { s with mem := m } := by
  intro f hf
  cases f <;> simp [Field.Same] at hf ⊢

theorem withDisp_frame (d : Display) : FrameOutside [.disp] s { s with disp := d } := by
  intro f hf
  cases f <;> simp [Field.Same] at hf ⊢

theorem withDT_frame (b : Byte) : FrameOutside [.DT] s { s with DT := b } := by
  intro f hf
  cases f <;> simp [Field.Same] at hf ⊢

theorem withST_frame (b : Byte) : FrameOutside [.ST] s { s with ST := b } := by
  intro f hf
  cases f <;> simp [Field.Same] at hf ⊢

end

/-! ## What an instruction writes -/

/-- The fields an instruction may write when it raises no fatal error. -/
def writtenFields : Instr → List Field
  | .cls => [.disp, .pc]
  | .ret | .call _ => [.stack, .pc]
  | .jp _ | .jpV0 _ | .seImm _ _ | .sneImm _ _ | .seReg _ _ | .sneReg _ _ | .skp _ | .sknp _ => [.pc]
  | .ldImm _ _ | .addImm _ _ | .ldReg _ _ | .ldVxDt _ => [.V, .pc]
  | .or _ _ | .and _ _ | .xor _ _ | .addReg _ _ | .sub _ _ | .shr _ _ | .subn _ _ | .shl _ _ => [.V, .pc]
  | .rnd _ _ => [.env, .V, .pc]
  | .drw _ _ _ => [.disp, .V, .pc]
  | .ldVxK _ => [.V, .pc, .batch]
  | .ldDtVx _ => [.DT, .pc]
  | .ldStVx _ => [.ST, .pc]
  | .ldI _ | .addIVx _ | .ldFVx _ => [.I, .pc]
  | .ldBVx _ => [.mem, .pc]
  | .ldMemVx _ => [.mem, .I, .pc]
  | .ldVxMem _ => [.V, .I, .pc]

/-- An instruction writes its own fields only, or takes a fatal error. -/
theorem exec_frame_or_halt (i : Instr) (s : State) :
    ∃ t, exec i s = .next t ∧
      (FrameOutside (writtenFields i) s t ∨ ∃ e, t = s.halt e (some (encode i))) := by
  cases i with
  | cls => exact ⟨_, rfl, .inl ((withDisp_frame s _).trans (advance_frame _))⟩
  | jp | jpV0 => exact ⟨_, rfl, .inl (jump_frame s _)⟩
  | seImm | sneImm | seReg | sneReg => exact ⟨_, rfl, .inl (skipWhen_frame s _)⟩
  | ldImm | addImm | ldReg | ldVxDt => exact ⟨_, rfl, .inl ((setV_frame s _ _).trans (advance_frame _))⟩
  | or | and | xor | addReg | sub | shr | subn | shl =>
    exact ⟨_, rfl, .inl ((setWithFlag_frame s _ _ _).trans (advance_frame _))⟩
  | rnd =>
    exact ⟨_, rfl, .inl ((takeRandom_frame s).trans ((setV_frame _ _ _).trans (advance_frame _)))⟩
  | ldI | addIVx => exact ⟨_, rfl, .inl ((setI_frame s _).trans (advance_frame _))⟩
  | ldDtVx => exact ⟨_, rfl, .inl ((withDT_frame s _).trans (advance_frame _))⟩
  | ldStVx => exact ⟨_, rfl, .inl ((withST_frame s _).trans (advance_frame _))⟩
  | ret =>
    rcases execRet_cases s with ⟨_, h⟩ | ⟨_, _, h⟩
    · exact ⟨_, h, .inr ⟨_, rfl⟩⟩
    · exact ⟨_, h, .inl ((withStack_frame s _).trans (jump_frame _ _))⟩
  | call nnn =>
    rcases execCall_cases nnn s with ⟨_, h⟩ | ⟨_, h⟩
    · exact ⟨_, h, .inr ⟨_, rfl⟩⟩
    · exact ⟨_, h, .inl ((withStack_frame s _).trans (jump_frame _ _))⟩
  | drw x y n =>
    rcases execDrw_cases x y n s with ⟨_, _, h⟩ | ⟨_, h⟩
    · exact ⟨_, h, .inr ⟨_, rfl⟩⟩
    · exact ⟨_, h, .inl (drawn_frame s _)⟩
  | skp x =>
    rcases execSkp_cases x s with ⟨_, h⟩ | ⟨_, h⟩
    · exact ⟨_, h, .inr ⟨_, rfl⟩⟩
    · exact ⟨_, h, .inl (skipWhen_frame s _)⟩
  | sknp x =>
    rcases execSknp_cases x s with ⟨_, h⟩ | ⟨_, h⟩
    · exact ⟨_, h, .inr ⟨_, rfl⟩⟩
    · exact ⟨_, h, .inl (skipWhen_frame s _)⟩
  | ldVxK x =>
    rcases execLdVxK_cases x s with ⟨_, _, h⟩ | ⟨_, h⟩
    · refine ⟨_, h, .inl (.mono _ _ _ _ ?_ ((setV_frame s _ _).trans (advance_frame _)))⟩
      simp [writtenFields]
    · refine ⟨_, h, .inl (.mono _ _ _ _ ?_ (endBatch_frame s))⟩
      simp [writtenFields]
  | ldFVx x =>
    rcases execLdFVx_cases x s with ⟨_, h⟩ | ⟨_, h⟩
    · exact ⟨_, h, .inr ⟨_, rfl⟩⟩
    · exact ⟨_, h, .inl ((setI_frame s _).trans (advance_frame _))⟩
  | ldBVx x =>
    rcases execLdBVx_cases x s with ⟨_, h⟩ | ⟨_, h⟩
    · exact ⟨_, h, .inr ⟨_, rfl⟩⟩
    · exact ⟨_, h, .inl ((withMem_frame s _).trans (advance_frame _))⟩
  | ldMemVx x =>
    rcases execLdMemVx_cases x s with ⟨_, h⟩ | ⟨_, h⟩
    · exact ⟨_, h, .inr ⟨_, rfl⟩⟩
    · exact ⟨_, h, .inl ((withMem_frame s _).trans ((setI_frame _ _).trans (advance_frame _)))⟩
  | ldVxMem x =>
    rcases execLdVxMem_cases x s with ⟨_, h⟩ | ⟨_, h⟩
    · exact ⟨_, h, .inr ⟨_, rfl⟩⟩
    · exact ⟨_, h, .inl ((loadRegs_frame s _ _).trans ((setI_frame _ _).trans (advance_frame _)))⟩

/-- A field that an instruction does not write, and a fatal error does not write either, stays. -/
theorem exec_same_of_not_written {i : Instr} {s t : State} {f : Field} (h : exec i s = .next t)
    (hw : f ∉ writtenFields i) (hf : f ∉ [Field.run, .haltRecord, .batch]) : f.Same s t := by
  obtain ⟨u, hu, hframe | ⟨e, rfl⟩⟩ := exec_frame_or_halt i s <;> cases hu.symm.trans h
  · exact hframe f hw
  · exact halt_frame s e _ f hf

/-- A field that changed, and that no fatal error writes, is one the instruction writes. -/
theorem mem_writtenFields_of_changed {i : Instr} {s t : State} {f : Field} (h : exec i s = .next t)
    (hf : f ∉ [Field.run, .haltRecord, .batch]) (hc : ¬ f.Same s t) : f ∈ writtenFields i :=
  not_not.1 fun hw => hc (exec_same_of_not_written h hw hf)

/-- A register that an instruction may not write (`MayWrite`) keeps its value. -/
theorem exec_getV_of_not_mayWrite {i : Instr} {s t : State} {r : Reg} (h : exec i s = .next t)
    (hr : ¬ MayWrite i r) : t.getV r = s.getV r := by
  by_cases hV : Field.V ∈ writtenFields i
  case neg => exact State.getV_congr s t (exec_same_of_not_written h hV (by decide)) r
  cases i with
  | ldImm | addImm | ldReg | ldVxDt =>
    cases h
    exact State.getV_setV_of_ne s _ r _ hr
  | or | and | xor | addReg | sub | shr | subn | shl =>
    cases h
    obtain ⟨hx, hF⟩ := not_or.1 hr
    exact (State.getV_setWithFlag s _ r _ _).trans (by rw [if_neg hF, if_neg hx])
  | rnd =>
    cases h
    exact (State.getV_setV_of_ne _ _ r _ hr).trans (State.getV_congr _ _ s.takeRandom_V r)
  | drw x y n =>
    rcases execDrw_cases x y n s with ⟨_, _, h'⟩ | ⟨_, h'⟩ <;> cases h'.symm.trans h
    · rfl
    · exact State.getV_setV_of_ne _ VF r _ hr
  | ldVxK x =>
    rcases execLdVxK_cases x s with ⟨_, _, h'⟩ | ⟨_, h'⟩ <;> cases h'.symm.trans h
    · exact State.getV_setV_of_ne s x r _ hr
    · rfl
  | ldVxMem x =>
    rcases execLdVxMem_cases x s with ⟨_, h'⟩ | ⟨_, h'⟩ <;> cases h'.symm.trans h
    · rfl
    · exact (State.getV_loadRegs s x r _).trans (if_neg hr)
  | _ => simp [writtenFields] at hV

/-! ## The invariant under the state's updates -/

theorem wrapI_le (v : Nat) : (wrapI hardware.iWrap v).toNat ≤ 0xFFF := by
  rw [show hardware.iWrap = .mask12 from rfl, wrapI_mask12_toNat]
  omega

theorem glyphAddress_le (d : Fin 16) : (glyphAddress d).toNat ≤ 0xFFF := by
  rw [glyphAddress_toNat]
  simp only [hardware, glyphBytes]
  omega

namespace State.Inv

variable {s : State} (hs : s.Inv)
include hs

theorem setV (x : Reg) (b : Byte) : (s.setV x b).Inv := { hs with }

theorem setWithFlag (x : Reg) (r f : Byte) : (s.setWithFlag x r f).Inv := { hs with }

theorem loadRegs (x : Reg) (a : Nat) : (s.loadRegs x a).Inv := { hs with }

theorem withDisp (d : Display) : { s with disp := d }.Inv := { hs with }

theorem withDT (b : Byte) : { s with DT := b }.Inv := { hs with }

theorem withST (b : Byte) : { s with ST := b }.Inv := { hs with }

theorem takeRandom : s.takeRandom.2.Inv := by
  unfold State.takeRandom
  split <;> exact { hs with }

theorem withMem {m : Memory} (hm : m.wf = true) : { s with mem := m }.Inv := { hs with mem_wf := hm }

theorem setI {v : Word} (hv : v.toNat ≤ 0xFFF) : (s.setI v).Inv := { hs with index_le := hv }

theorem jump {a : Word} (ha : a.toNat ≤ 0x10FE) : (s.jump a).Inv := { hs with pc_le := ha }

theorem skipWhen (hpc : s.pc.toNat < 0xFFF) (c : Bool) : (s.skipWhen c).Inv where
  __ := hs
  pc_le := by cases c <;> simp [BitVec.toNat_add] <;> omega

theorem advance (hpc : s.pc.toNat < 0xFFF) : s.advance.Inv := hs.skipWhen hpc false

theorem drawn (hpc : s.pc.toNat < 0xFFF) (b : Blit) : (s.drawn b).Inv :=
  ((hs.withDisp b.disp).setV VF _).advance hpc

theorem report (hpc : s.pc.toNat < 0xFFF) (w : Word) : (s.report w).Inv :=
  { hs.advance hpc with }

theorem popped : { s with stack := s.stack.dropLast }.Inv where
  __ := hs
  stack_le := (List.dropLast_sublist _).length_le.trans hs.stack_le
  returns_le r hr := hs.returns_le r (List.mem_of_mem_dropLast hr)

theorem pushed (hlt : s.stack.length < hardware.stackDepth) {r : Word} (hr : r.toNat ≤ 0x1000) :
    { s with stack := s.stack ++ [r] }.Inv where
  __ := hs
  stack_le := by simpa using hlt
  returns_le r' h := by
    rcases List.mem_append.1 h with h | h
    · exact hs.returns_le r' h
    · exact List.mem_singleton.1 h ▸ hr

theorem endBatch : s.endBatch.Inv :=
  { hs with halted_idle := fun _ => rfl, batch_le := Nat.zero_le _ }

theorem halt (e : FatalError) (w : Option Word) : (s.halt e w).Inv :=
  { hs with record_halted := fun _ => rfl, halted_idle := fun _ => rfl, batch_le := Nat.zero_le _ }

/-- One turn of the batch is used up. -/
theorem spendTurn : { s with batch := s.batch - 1 }.Inv where
  __ := hs
  halted_idle h := by simp [hs.halted_idle h]
  batch_le := (Nat.sub_le _ _).trans hs.batch_le

theorem enterTick (hrun : s.run = .running) : s.enterTick.Inv where
  mem_wf := by simpa using hs.mem_wf
  index_le := by simpa using hs.index_le
  pc_le := by simpa using hs.pc_le
  stack_le := by simpa using hs.stack_le
  returns_le := by simpa using hs.returns_le
  record_halted := by simpa using hs.record_halted
  halted_idle := by simp [hrun]
  batch_le := by simp

end State.Inv

/-! ## The invariant under a step -/

/-- The target of Bnnn: "at most 0x10FE" (10_state.md R41). -/
theorem jpV0_target_le {nnn : Word} (h : nnn.toNat < 0x1000) (b : Byte) :
    (nnn + b.setWidth 16).toNat ≤ 0x10FE := by
  have := b.isLt
  simp only [BitVec.toNat_add, BitVec.toNat_setWidth]
  omega

/-- A well-formed instruction fetched below the last cell keeps the invariant. -/
theorem exec_next_inv {i : Instr} {s : State} (hs : s.Inv) (hpc : s.pc.toNat < 0xFFF)
    (hi : i.WellFormed = true) : ∃ t, exec i s = .next t ∧ t.Inv := by
  cases i with
  | cls => exact ⟨_, rfl, (hs.withDisp _).advance hpc⟩
  | jp nnn =>
    have hn : nnn.toNat < 0x1000 := of_decide_eq_true hi
    exact ⟨_, rfl, hs.jump (by omega)⟩
  | jpV0 nnn => exact ⟨_, rfl, hs.jump (jpV0_target_le (of_decide_eq_true hi) _)⟩
  | seImm | sneImm | seReg | sneReg => exact ⟨_, rfl, hs.skipWhen hpc _⟩
  | ldImm | addImm | ldReg | ldVxDt => exact ⟨_, rfl, (hs.setV _ _).advance hpc⟩
  | or | and | xor | addReg | sub | shr | subn | shl =>
    exact ⟨_, rfl, (hs.setWithFlag _ _ _).advance hpc⟩
  | rnd => exact ⟨_, rfl, (hs.takeRandom.setV _ _).advance (by simpa using hpc)⟩
  | ldI nnn => exact ⟨_, rfl, (hs.setI (Nat.le_of_lt_succ (of_decide_eq_true hi))).advance hpc⟩
  | addIVx => exact ⟨_, rfl, (hs.setI (wrapI_le _)).advance hpc⟩
  | ldDtVx => exact ⟨_, rfl, (hs.withDT _).advance hpc⟩
  | ldStVx => exact ⟨_, rfl, (hs.withST _).advance hpc⟩
  | ret =>
    rcases execRet_cases s with ⟨_, h⟩ | ⟨r, hr, h⟩
    · exact ⟨_, h, hs.halt _ _⟩
    · have hle := hs.returns_le r (List.mem_of_getLast? hr)
      exact ⟨_, h, hs.popped.jump (by omega)⟩
  | call nnn =>
    have hn : nnn.toNat < 0x1000 := of_decide_eq_true hi
    rcases execCall_cases nnn s with ⟨_, h⟩ | ⟨hlt, h⟩
    · exact ⟨_, h, hs.halt _ _⟩
    · have hret : (s.pc + 2).toNat ≤ 0x1000 := by
        simp [BitVec.toNat_add]
        omega
      exact ⟨_, h, (hs.pushed hlt hret).jump (by omega)⟩
  | drw x y n =>
    rcases execDrw_cases x y n s with ⟨_, _, h⟩ | ⟨_, h⟩
    · exact ⟨_, h, hs.halt _ _⟩
    · exact ⟨_, h, hs.drawn hpc _⟩
  | skp x =>
    rcases execSkp_cases x s with ⟨_, h⟩ | ⟨_, h⟩
    · exact ⟨_, h, hs.halt _ _⟩
    · exact ⟨_, h, hs.skipWhen hpc _⟩
  | sknp x =>
    rcases execSknp_cases x s with ⟨_, h⟩ | ⟨_, h⟩
    · exact ⟨_, h, hs.halt _ _⟩
    · exact ⟨_, h, hs.skipWhen hpc _⟩
  | ldVxK x =>
    rcases execLdVxK_cases x s with ⟨_, _, h⟩ | ⟨_, h⟩
    · exact ⟨_, h, (hs.setV _ _).advance hpc⟩
    · exact ⟨_, h, hs.endBatch⟩
  | ldFVx x =>
    rcases execLdFVx_cases x s with ⟨_, h⟩ | ⟨_, h⟩
    · exact ⟨_, h, hs.halt _ _⟩
    · exact ⟨_, h, (hs.setI (glyphAddress_le _)).advance hpc⟩
  | ldBVx x =>
    rcases execLdBVx_cases x s with ⟨_, h⟩ | ⟨hle, h⟩
    · exact ⟨_, h, hs.halt _ _⟩
    · have hm := Memory.writeBlock_wf (decimalDigits (s.getV x)) s.mem hs.mem_wf s.I.toNat
        (by simp only [decimalDigits_length, memSize]; omega)
      exact ⟨_, h, (hs.withMem hm).advance hpc⟩
  | ldMemVx x =>
    rcases execLdMemVx_cases x s with ⟨_, h⟩ | ⟨hle, h⟩
    · exact ⟨_, h, hs.halt _ _⟩
    · have hm := Memory.writeBlock_wf (s.firstRegs x) s.mem hs.mem_wf s.I.toNat
        (by simp only [firstRegs_length, memSize]; omega)
      exact ⟨_, h, ((hs.withMem hm).setI (wrapI_le _)).advance hpc⟩
  | ldVxMem x =>
    rcases execLdVxMem_cases x s with ⟨_, h⟩ | ⟨_, h⟩
    · exact ⟨_, h, hs.halt _ _⟩
    · exact ⟨_, h, ((hs.loadRegs _ _).setI (wrapI_le _)).advance hpc⟩

theorem coreStep_inv {s t : State} (hs : s.Inv) (h : coreStep s = .next t) : t.Inv := by
  rcases coreStep_cases s _ h with ⟨e, _, ht⟩ | ⟨w, _, hf, _, ht⟩ | ⟨w, i, hf, hd, ht⟩
  · cases ht
    exact hs.halt e none
  · cases ht
    exact hs.report (fetch_ok_lt s w hf) w
  · obtain ⟨u, hu, hinv⟩ := exec_next_inv hs (fetch_ok_lt s w hf) (decode_wellFormed w i hd)
    cases ht.trans hu
    exact hinv

theorem batchTurn_inv {s t : State} (hs : s.Inv) (h : batchTurn s = .next t) : t.Inv := by
  rcases Nat.lt_or_ge s.pc.toNat 0x1000 with hpc | hpc
  · exact coreStep_inv hs.spendTurn (batchTurn_below_end s hpc ▸ h)
  · cases (batchTurn_at_end s hpc).symm.trans h
    exact hs.endBatch

/-! ## The reports -/

theorem exec_reports {i : Instr} {s t : State} (h : exec i s = .next t) : t.reports = s.reports :=
  exec_same_of_not_written (f := .reports) h (by cases i <;> simp [writtenFields]) (by decide)

/-- A turn of the batch appends at most one report, for an invalid word at `pc`. -/
theorem batchTurn_reports {s t : State} (h : batchTurn s = .next t) :
    t.reports = s.reports ∨
      ∃ w r, fetch s = .ok w ∧ decode w = .error r ∧ t.reports = s.reports ++ [⟨s.pc, w⟩] := by
  rcases Nat.lt_or_ge s.pc.toNat 0x1000 with hpc | hpc
  · rw [batchTurn_below_end s hpc] at h
    rcases coreStep_cases _ _ h with ⟨_, _, ht⟩ | ⟨w, r, hf, hd, ht⟩ | ⟨_, _, _, _, ht⟩
    · cases ht
      exact .inl rfl
    · cases ht
      exact .inr ⟨w, r, hf, hd, rfl⟩
    · exact .inl (exec_reports (s := { s with batch := s.batch - 1 }) ht.symm)
  · cases (batchTurn_at_end s hpc).symm.trans h
    exact .inl rfl

/-! ## The reset state -/

theorem resetFor_inv (p : ResetParams) (hI : p.regs.I.toNat ≤ 0xFFF) : (State.resetFor p).Inv where
  mem_wf := Memory.ofFont_wf p.font
  index_le := hI
  pc_le := show (0x200 : Word).toNat ≤ 0x10FE by decide
  stack_le := Nat.zero_le _
  returns_le := by simp [State.resetFor, State.resetWith]
  record_halted h := absurd rfl h
  halted_idle _ := rfl
  batch_le := Nat.zero_le _

/-- The default parameters give this hardware's reset state. -/
theorem resetFor_default : State.resetFor ResetParams.default = State.reset := by
  rw [State.resetFor, ResetParams.default, Memory.ofFont_default, State.reset]

/-- Only the parameters' own fields depend on the parameters. -/
theorem resetFor_frame (p : ResetParams) :
    FrameOutside [.V, .I, .DT, .ST, .mem] State.reset (State.resetFor p) := by
  intro f hf
  cases f <;> simp [Field.Same, State.resetFor, State.reset, State.resetWith] at hf ⊢

theorem resetFor_read_glyph (p : ResetParams) (k : Fin 80) :
    (State.resetFor p).mem.read k.val = p.font[k] := by
  have h := Memory.read_ofFont p.font k
  rwa [show hardware.glyphBase = 0 from rfl, Nat.zero_add] at h

theorem resetFor_read_zero (p : ResetParams) (a : Nat) (ha : 0x050 ≤ a) :
    (State.resetFor p).mem.read a = 0 :=
  (Memory.read_ofFont_of_ge p.font a ha).trans (Memory.initial_of_ge a ha)

end Sys2Proof.Machine

/-! ## The obligations -/

namespace Sys2Proof.Proofs

open Sys2Proof.Machine

/-- Settles O3: a step is nothing in Halted, else one turn of the batch, in a tick begun if need be, and
each of these keeps the invariant. -/
theorem stepKeepsInvariant : Obligations.StepKeepsInvariant := by
  unfold Obligations.StepKeepsInvariant
  intro s t hs h
  cases hrun : s.run with
  | halted =>
    cases (step_of_halted s hrun).symm.trans h
    exact hs
  | running =>
    rw [step_of_running s hrun] at h
    split at h
    · exact batchTurn_inv (hs.enterTick hrun) h
    · exact batchTurn_inv hs h

/-- Settles O19: a register outside `MayWrite` keeps its value. -/
theorem registersChangedOnlyByTheirWriters : Obligations.RegistersChangedOnlyByTheirWriters := by
  unfold Obligations.RegistersChangedOnlyByTheirWriters
  intro i s t r h hne
  exact not_not.1 fun hr => hne (exec_getV_of_not_mayWrite h hr)

/-- Settles O21: a changed field is among those the instruction writes, and each field has few writers. -/
theorem stateChangedOnlyByItsWriters : Obligations.StateChangedOnlyByItsWriters := by
  unfold Obligations.StateChangedOnlyByItsWriters
  intro i s t h
  have changed (f : Field) := mem_writtenFields_of_changed (f := f) h
  have kept (f : Field) := exec_same_of_not_written (f := f) h
  refine ⟨?_ ∘ changed .I (by decide), ?_ ∘ changed .stack (by decide), ?_ ∘ changed .DT (by decide),
    ?_ ∘ changed .ST (by decide), ?_ ∘ changed .disp (by decide), ?_ ∘ changed .env (by decide),
    exec_reports h, kept .keys ?_ (by decide), kept .loadOpen ?_ (by decide)⟩
  all_goals cases i <;> simp [writtenFields]

/-- Settles O22: the start of a tick changes neither the reports nor what is fetched, and a turn of the
batch appends at most the one report. -/
theorem reportsOnlyGrowByInvalidWords : Obligations.ReportsOnlyGrowByInvalidWords := by
  unfold Obligations.ReportsOnlyGrowByInvalidWords
  intro s t h
  cases hrun : s.run with
  | halted =>
    cases (step_of_halted s hrun).symm.trans h
    exact .inl rfl
  | running =>
    rw [step_of_running s hrun] at h
    split at h
    · simpa [fetch_congr s s.enterTick] using batchTurn_reports h
    · exact batchTurn_reports h

/-- Settles O1: the table is read off the reset state, and the rest from the memory of a `FONT`. -/
theorem resetStateIsTheTable : Obligations.ResetStateIsTheTable := by
  unfold Obligations.ResetStateIsTheTable
  refine ⟨by decide, rfl, rfl, rfl, rfl, rfl, by decide, by decide, by decide, by decide, by decide,
    by decide, by decide, by decide, fun a ha _ => Memory.initial_of_ge a ha, Display.clear_pixel, rfl,
    rfl, rfl, resetFor_default, fun p => ?_⟩
  exact ⟨rfl, rfl, rfl, rfl, resetFor_read_glyph p, fun a ha _ => resetFor_read_zero p a ha,
    resetFor_frame p⟩

/-- Settles O2: the default parameters are one case of the general fact. -/
theorem resetSatisfiesInvariant : Obligations.ResetSatisfiesInvariant := by
  unfold Obligations.ResetSatisfiesInvariant
  exact ⟨resetFor_default ▸ resetFor_inv ResetParams.default (by decide), resetFor_inv⟩

end Sys2Proof.Proofs

/-!
The statements about memory: how a word is fetched, which instructions change it, the faults of blocks
beyond it, and the host's actions (spec 20_memory.md R75 to R89).
-/

namespace Sys2Proof.Machine

/-! ## Block writes -/

/-- A cell that a block write changed lies in the block. -/
theorem Memory.mem_block_of_read_writeBlock_ne {m : Memory} (hm : m.wf = true) {a : Nat} {bs : List Byte}
    (ha : a + bs.length ≤ memSize) {c : Nat} (hne : (m.writeBlock a bs).read c ≠ m.read c) :
    a ≤ c ∧ c < a + bs.length := by
  by_contra hout
  exact hne ((Memory.read_writeBlock bs m hm a ha c).trans (if_neg hout))

/-- The cells of the block hold the bytes written. -/
theorem Memory.read_writeBlock_inside {m : Memory} (hm : m.wf = true) {a : Nat} {bs : List Byte}
    (ha : a + bs.length ≤ memSize) {k : Nat} (hk : k < bs.length) :
    (m.writeBlock a bs).read (a + k) = bs.getD k 0 := by
  rw [Memory.read_writeBlock bs m hm a ha, if_pos (by omega), Nat.add_sub_cancel_left]

/-! ## The stores -/

theorem execLdBVx_changed_cell {x : Reg} {s t : State} {a : Nat} (hm : s.mem.wf = true)
    (h : execLdBVx x s = .next t) (hne : t.mem.read a ≠ s.mem.read a) :
    s.I.toNat ≤ a ∧ a ≤ s.I.toNat + 2 := by
  rcases execLdBVx_cases x s with ⟨_, h'⟩ | ⟨hle, h'⟩ <;> cases h'.symm.trans h
  · exact absurd rfl hne
  · have hlen := decimalDigits_length (s.getV x)
    have := Memory.mem_block_of_read_writeBlock_ne hm (by simp only [hlen, memSize]; omega) hne
    omega

theorem execLdMemVx_changed_cell {x : Reg} {s t : State} {a : Nat} (hm : s.mem.wf = true)
    (h : execLdMemVx x s = .next t) (hne : t.mem.read a ≠ s.mem.read a) :
    s.I.toNat ≤ a ∧ a ≤ s.I.toNat + x.val := by
  rcases execLdMemVx_cases x s with ⟨_, h'⟩ | ⟨hle, h'⟩ <;> cases h'.symm.trans h
  · exact absurd rfl hne
  · have hlen := firstRegs_length s x
    have := Memory.mem_block_of_read_writeBlock_ne hm (by simp only [hlen, memSize]; omega) hne
    omega

/-! ## The bytes of a word -/

@[simp] theorem highByte_wordOfBytes (hi lo : Byte) : highByte (wordOfBytes hi lo) = hi := by
  have := lo.isLt
  apply BitVec.eq_of_toNat_eq
  rw [highByte_toNat, wordOfBytes_toNat]
  omega

@[simp] theorem lowByte_wordOfBytes (hi lo : Byte) : lowByte (wordOfBytes hi lo) = lo := by
  have := lo.isLt
  apply BitVec.eq_of_toNat_eq
  rw [lowByte_toNat, wordOfBytes_toNat]
  omega

/-! ## Halting instructions -/

/-- An instruction that answers its own halt ends as 60_exceptions.md R263 to R265 say. -/
theorem haltsWith_of_exec {i : Instr} {s : State} {e : FatalError}
    (h : exec i s = .next (s.halt e (some (encode i)))) : HaltsWith i s e :=
  ⟨_, h, rfl, rfl, halt_frame s e _⟩

theorem drw_haltsWith {n : Nat} {s : State} (x y : Reg) (hn : 1 ≤ n) (hI : 0x1000 < s.I.toNat + n) :
    HaltsWith (.drw x y n) s (.addressFault (max s.I.toNat 0x1000)) := by
  rcases execDrw_cases x y n s with ⟨_, _, h⟩ | ⟨hfits, _⟩
  · exact haltsWith_of_exec h
  · omega

theorem ldBVx_haltsWith {s : State} (x : Reg) (hI : 0xFFF < s.I.toNat + 2) :
    HaltsWith (.ldBVx x) s (.addressFault (max s.I.toNat 0x1000)) := by
  rcases execLdBVx_cases x s with ⟨_, h⟩ | ⟨hfits, _⟩
  · exact haltsWith_of_exec h
  · omega

theorem ldMemVx_haltsWith {x : Reg} {s : State} (hI : 0xFFF < s.I.toNat + x.val) :
    HaltsWith (.ldMemVx x) s (.addressFault (max s.I.toNat 0x1000)) := by
  rcases execLdMemVx_cases x s with ⟨_, h⟩ | ⟨hfits, _⟩
  · exact haltsWith_of_exec h
  · omega

theorem ldVxMem_haltsWith {x : Reg} {s : State} (hI : 0xFFF < s.I.toNat + x.val) :
    HaltsWith (.ldVxMem x) s (.addressFault (max s.I.toNat 0x1000)) := by
  rcases execLdVxMem_cases x s with ⟨_, h⟩ | ⟨hfits, _⟩
  · exact haltsWith_of_exec h
  · omega

/-! ## The load (R84 to R86) -/

theorem load_of_closed {s : State} (bytes : List Byte) (h : s.loadOpen = false) :
    load bytes s = .refused .loadOutOfTurn := by
  simp [load, h]

/-- Everything a load can do. -/
theorem load_cases (bytes : List Byte) (s : State) :
    (s.loadOpen = false ∧ load bytes s = .refused .loadOutOfTurn) ∨
    (s.loadOpen = true ∧ maxProgram < bytes.length ∧ load bytes s = .fault .romTooLarge) ∨
    (s.loadOpen = true ∧ bytes.length ≤ maxProgram ∧ load bytes s =
      .next { s with mem := s.mem.writeBlock programBase bytes, loadOpen := false }) := by
  cases hopen : s.loadOpen with
  | false => exact .inl ⟨rfl, load_of_closed bytes hopen⟩
  | true =>
    rcases Nat.lt_or_ge maxProgram bytes.length with hlen | hlen
    · exact .inr (.inl ⟨rfl, hlen, by simp [load, hopen, hlen]⟩)
    · exact .inr (.inr ⟨rfl, hlen, by simp [load, hopen, Nat.not_lt.2 hlen]⟩)

/-- After a load that is accepted none is due. -/
theorem load_next_closed {bytes : List Byte} {s t : State} (h : load bytes s = .next t) :
    t.loadOpen = false := by
  rcases load_cases bytes s with ⟨_, h'⟩ | ⟨_, _, h'⟩ | ⟨_, _, h'⟩ <;> cases h'.symm.trans h
  rfl

theorem loaded_frame (s : State) (m : Memory) (b : Bool) :
    FrameOutside [.mem, .loadOpen] s { s with mem := m, loadOpen := b } := by
  intro f hf
  cases f <;> simp [Field.Same] at hf ⊢

/-! ## The host's actions (60_exceptions.md R286, R287) -/

theorem actWith_load {s : State} (p : ResetParams) (bytes : List Byte) (h : s.batch = 0) :
    actWith p (.load bytes) s = load bytes s := by
  simp [actWith, h]

theorem actWith_quit {s : State} (p : ResetParams) (h : s.batch = 0) :
    actWith p .quit s = .next s.quit := by
  simp [actWith, h]

theorem actWith_reset {s : State} (p : ResetParams) (h : s.batch = 0) :
    actWith p .reset s = .next (s.resetAction p) := by
  simp [actWith, h]

theorem actWith_midTick {s : State} (p : ResetParams) (a : HostAction) (h : s.batch ≠ 0) :
    actWith p a s = .refused .midTick := by
  simp [actWith, h]

theorem observe_midTick {s : State} (h : s.batch ≠ 0) : observe s = .refused .midTick := by
  simp [observe, h]

theorem observe_between_ticks {s : State} (h : s.batch = 0) :
    observe s = .next ⟨s.disp, decide (s.run = .halted), s.haltRecord, s.reports, s.ST⟩ := by
  simp [observe, h]

theorem quit_frame (s : State) : FrameOutside [.run] s s.quit := by
  intro f hf
  cases f <;> simp [Field.Same] at hf ⊢

theorem withEnv_frame (s : State) (e : Env) : FrameOutside [.env] s { s with env := e } := by
  intro f hf
  cases f <;> simp [Field.Same] at hf ⊢

end Sys2Proof.Machine

/-! ## The obligations -/

namespace Sys2Proof.Proofs

open Sys2Proof.Machine

/-- Settles O20: only Fx33 and Fx55 write memory, and each changes no cell outside its block. -/
theorem memoryChangedOnlyByStores : Obligations.MemoryChangedOnlyByStores := by
  unfold Obligations.MemoryChangedOnlyByStores
  intro i s t a hm h hne
  have hw : Field.mem ∈ writtenFields i := mem_writtenFields_of_changed h (by decide) fun hs => hne (hs a)
  cases i with
  | ldBVx x => exact .inl ⟨x, rfl, execLdBVx_changed_cell hm h hne⟩
  | ldMemVx x => exact .inr ⟨x, rfl, execLdMemVx_changed_cell hm h hne⟩
  | _ => simp [writtenFields] at hw

/-- Settles O59: the load is a block write at 0x200, and 0xE00 bytes fill memory to its end. -/
theorem loadCopiesProgram : Obligations.LoadCopiesProgram := by
  unfold Obligations.LoadCopiesProgram
  intro s bytes hm hopen
  rcases load_cases bytes s with ⟨hclosed, _⟩ | ⟨_, hlong, h⟩ | ⟨_, hfits, h⟩
  · simp [hopen] at hclosed
  · exact ⟨fun hle => absurd hlong (Nat.not_lt.2 hle), fun _ => h⟩
  · have hblock : programBase + bytes.length ≤ memSize := by
      simp only [maxProgram, programBase, memSize] at hfits ⊢
      omega
    refine ⟨fun _ => ⟨_, h, fun k hk => Memory.read_writeBlock_inside hm hblock hk, fun a ha => ?_,
      loaded_frame s _ _⟩, fun hlt => absurd hlt (Nat.not_lt.2 hfits)⟩
    by_contra hne
    have := Memory.mem_block_of_read_writeBlock_ne hm hblock hne
    simp only [programBase] at this
    omega

/-- Settles O6: below the last cell the fetched word is `wordOfBytes` of the two bytes, and its halves are
those bytes. -/
theorem fetchReadsBigEndian : Obligations.FetchReadsBigEndian := by
  unfold Obligations.FetchReadsBigEndian
  intro s hpc
  exact ⟨_, fetch_of_lt s hpc, highByte_wordOfBytes _ _, lowByte_wordOfBytes _ _⟩

/-- Settles O57: the end each of the four instructions has on a block that does not fit is its halt. -/
theorem blockBeyondMemoryHalts : Obligations.BlockBeyondMemoryHalts := by
  unfold Obligations.BlockBeyondMemoryHalts
  intro x y n s
  exact ⟨drw_haltsWith x y, fun h => ldBVx_haltsWith x (by omega), fun h =>
    ⟨ldMemVx_haltsWith (by omega), ldVxMem_haltsWith (by omega)⟩⟩

/-- Settles O60: between ticks an action is its own meaning, and inside a tick it is refused. -/
theorem hostActsBetweenTicks : Obligations.HostActsBetweenTicks := by
  unfold Obligations.HostActsBetweenTicks
  refine ⟨fun _ _ => rfl, fun p s hb => ?quit, fun p s hb => ?reset, fun p s bytes hb hclosed => ?second,
    fun p s t bytes h => ?load, fun s => ?tick, fun s hb => ?read, fun p s a hb => ?midTick⟩
  case quit => exact ⟨_, actWith_quit p hb, rfl, quit_frame s⟩
  case reset => exact ⟨_, actWith_reset p hb, withEnv_frame _ _, rfl⟩
  case second => exact (actWith_load p bytes hb).trans (load_of_closed bytes hclosed)
  case load =>
    by_cases hb : s.batch = 0
    · exact load_next_closed ((actWith_load p bytes hb).symm.trans h)
    · cases (actWith_midTick p (.load bytes) hb).symm.trans h
  case tick => simp
  case read => exact ⟨_, observe_between_ticks hb, rfl, by simp, rfl, rfl, rfl⟩
  case midTick => exact ⟨actWith_midTick p a hb, observe_midTick hb⟩

end Sys2Proof.Proofs

/-!
The statements about the encoding: the two round trips of the decoder and the encoder, and the opcode map
(spec 30_encoding.md R103 to R108).
-/

namespace Sys2Proof

/-! ## Words from their fields (R101, R104) -/

section
variable {w : Word} {op : Nat} (hop : opField w = op)
include hop

theorem nnnWord_of_fields : nnnWord op (nnnField w) = w := by
  have hlt := opField_lt w
  subst hop
  apply BitVec.eq_of_toNat_eq
  rw [nnnWord_toNat _ _ hlt, nnnField_toNat, opField_eq]
  omega

theorem xkkWord_of_fields {kk : Byte} (hkk : kkField w = kk) : xkkWord op (xField w) kk = w := by
  have hlt := opField_lt w
  subst hop hkk
  apply BitVec.eq_of_toNat_eq
  rw [xkkWord_toNat _ _ _ hlt, kkField_toNat, xField_val, opField_eq]
  omega

theorem xynWord_of_fields {n : Nat} (hn : nField w = n) : xynWord op (xField w) (yField w) n = w := by
  have hlt := opField_lt w
  subst hop hn
  apply BitVec.eq_of_toNat_eq
  rw [xynWord_toNat _ _ _ _ hlt, nField_eq, xField_val, yField_val, opField_eq]
  omega

end

/-! ## The round trips -/

/-- Each format's fields are read back from its word, and they lead `decode` to the instruction's own row. -/
theorem decode_encode {i : Instr} (hi : i.WellFormed = true) : decode (encode i) = .ok i := by
  cases i with
  | cls | ret => rfl
  | jp | call | ldI | jpV0 =>
    simp [encode, decode, opField_nnnWord, nnnField_nnnWord _ _ _ (of_decide_eq_true hi)]
  | seImm | sneImm | ldImm | addImm | rnd | skp | sknp =>
    simp [encode, decode, opField_xkkWord, xField_xkkWord, kkField_xkkWord]
  | ldVxDt | ldVxK | ldDtVx | ldStVx | addIVx | ldFVx | ldBVx | ldMemVx | ldVxMem =>
    simp [encode, decode, decodeMisc, opField_xkkWord, xField_xkkWord, kkField_xkkWord]
  | seReg | sneReg =>
    simp [encode, decode, opField_xynWord, xField_xynWord, yField_xynWord, nField_xynWord]
  | ldReg | or | and | xor | addReg | sub | shr | subn | shl =>
    simp [encode, decode, decodeAlu, opField_xynWord, xField_xynWord, yField_xynWord, nField_xynWord]
  | drw =>
    simp [encode, decode, opField_xynWord, xField_xynWord, yField_xynWord,
      nField_xynWord _ _ _ _ _ (of_decide_eq_true hi)]

theorem encode_of_decodeAlu {w : Word} {i : Instr} (hop : opField w = 0x8) (h : decodeAlu w = .ok i) :
    encode i = w := by
  unfold decodeAlu at h
  split at h <;> cases h
  all_goals exact xynWord_of_fields hop ‹_›

theorem encode_of_decodeMisc {w : Word} {i : Instr} (hop : opField w = 0xF) (h : decodeMisc w = .ok i) :
    encode i = w := by
  unfold decodeMisc at h
  split at h <;> cases h
  all_goals exact xkkWord_of_fields hop (BitVec.eq_of_toNat_eq ‹_›)

/-- The operands `decode` reads are all the bits its row leaves open. The cases are those of `decode`, in its
order: `h_1` is the high nibble 0. -/
theorem encode_of_decode {w : Word} {i : Instr} (h : decode w = .ok i) : encode i = w := by
  unfold decode at h
  split at h
  case h_1 =>
    split_ifs at h with h00E0 h00EE <;> cases h
    · exact h00E0.symm
    · exact h00EE.symm
  case h_2 hop | h_3 hop | h_11 hop | h_12 hop =>
    cases h
    exact nnnWord_of_fields hop
  case h_4 hop | h_5 hop | h_7 hop | h_8 hop | h_13 hop =>
    cases h
    exact xkkWord_of_fields hop rfl
  case h_6 hop | h_10 hop =>
    split_ifs at h with hn
    cases h
    exact xynWord_of_fields hop hn
  case h_9 hop => exact encode_of_decodeAlu hop h
  case h_14 hop =>
    cases h
    exact xynWord_of_fields hop rfl
  case h_15 hop =>
    split_ifs at h with hskp hsknp <;> cases h
    · exact xkkWord_of_fields hop hskp
    · exact xkkWord_of_fields hop hsknp
  case h_16 hop => exact encode_of_decodeMisc hop h
  case h_17 => cases h

/-! ## The opcode map (R105, R107) -/

/-- The high nibbles of the rows of mask 0xF000. -/
def opRows : List Nat := [0x1, 0x2, 0x3, 0x4, 0x6, 0x7, 0xA, 0xB, 0xC, 0xD]

/-- The high and the low nibbles of the rows of mask 0xF00F. -/
def opNRows : List (Nat × Nat) :=
  [(0x5, 0x0), (0x8, 0x0), (0x8, 0x1), (0x8, 0x2), (0x8, 0x3), (0x8, 0x4), (0x8, 0x5), (0x8, 0x6),
   (0x8, 0x7), (0x8, 0xE), (0x9, 0x0)]

/-- The high nibbles and the low bytes of the rows of mask 0xF0FF. -/
def opKKRows : List (Nat × Byte) :=
  [(0xE, 0x9E), (0xE, 0xA1), (0xF, 0x07), (0xF, 0x0A), (0xF, 0x15), (0xF, 0x18), (0xF, 0x1E),
   (0xF, 0x29), (0xF, 0x33), (0xF, 0x55), (0xF, 0x65)]

/-- The rows of the map by their mask, with the fields that the mask fixes. -/
theorem opcodeTable_cases : ∀ r ∈ opcodeTable,
    (r.mask = 0xFFFF ∧ r.bits ∈ [(0x00E0 : Word), 0x00EE]) ∨
    (r.mask = 0xF000 ∧ ∃ op ∈ opRows, r.bits = BitVec.ofNat 16 (op * 0x1000)) ∨
    (r.mask = 0xF00F ∧ ∃ p ∈ opNRows, r.bits = BitVec.ofNat 16 (p.1 * 0x1000 + p.2)) ∨
    (r.mask = 0xF0FF ∧ ∃ p ∈ opKKRows, r.bits = BitVec.ofNat 16 (p.1 * 0x1000 + p.2.toNat)) := by
  decide

theorem decode_ok_of_fixed {w : Word} (h : w ∈ [(0x00E0 : Word), 0x00EE]) : ∃ i, decode w = .ok i := by
  simp only [List.mem_cons, List.not_mem_nil, or_false] at h
  rcases h with rfl | rfl
  · exact ⟨.cls, rfl⟩
  · exact ⟨.ret, rfl⟩

theorem decode_ok_of_opRows {w : Word} (h : opField w ∈ opRows) : ∃ i, decode w = .ok i := by
  simp only [opRows, List.mem_cons, List.not_mem_nil, or_false] at h
  rcases h with h | h | h | h | h | h | h | h | h | h <;> simp [decode, h]

theorem decode_ok_of_opNRows {w : Word} (h : (opField w, nField w) ∈ opNRows) : ∃ i, decode w = .ok i := by
  simp only [opNRows, List.mem_cons, List.not_mem_nil, or_false, Prod.mk.injEq] at h
  rcases h with h | h | h | h | h | h | h | h | h | h | h <;> simp [decode, decodeAlu, h]

theorem decode_ok_of_opKKRows {w : Word} (h : (opField w, kkField w) ∈ opKKRows) :
    ∃ i, decode w = .ok i := by
  simp only [opKKRows, List.mem_cons, List.not_mem_nil, or_false, Prod.mk.injEq] at h
  rcases h with h | h | h | h | h | h | h | h | h | h | h <;> simp [decode, decodeMisc, h]

/-- A row of mask 0xFFFF matches the one word of its bits. -/
theorem matches_FFFF (name : String) (b w : Word) :
    (OpcodeRow.mk name b 0xFFFF).Matches w = (w == b) := by
  rw [OpcodeRow.Matches, show (0xFFFF : Word) = BitVec.allOnes 16 from rfl, BitVec.and_allOnes]

theorem decode_ok_of_matches {w : Word} {r : OpcodeRow} (hr : r ∈ opcodeTable) (h : r.Matches w = true) :
    ∃ i, decode w = .ok i := by
  have hcases := opcodeTable_cases r hr
  obtain ⟨name, bits, mask⟩ := r
  obtain ⟨rfl, hb⟩ | ⟨rfl, op, hop, rfl⟩ | ⟨rfl, ⟨op, n⟩, hp, rfl⟩ | ⟨rfl, ⟨op, kk⟩, hp, rfl⟩ := hcases
  · rw [matches_FFFF, beq_iff_eq] at h
    exact decode_ok_of_fixed (h ▸ hb)
  · have hlt : ∀ op ∈ opRows, op < 0x10 := by decide
    rw [matches_F000 _ _ _ (hlt op hop), beq_iff_eq] at h
    exact decode_ok_of_opRows (h ▸ hop)
  · have hlt : ∀ p ∈ opNRows, p.1 < 0x10 ∧ p.2 < 0x10 := by decide
    obtain ⟨hop, hn⟩ := hlt _ hp
    rw [matches_F00F _ _ _ _ hop hn, Bool.and_eq_true, beq_iff_eq, beq_iff_eq] at h
    obtain ⟨rfl, rfl⟩ := h
    exact decode_ok_of_opNRows hp
  · have hlt : ∀ p ∈ opKKRows, p.1 < 0x10 := by decide
    rw [matches_F0FF _ _ _ _ (hlt _ hp), Bool.and_eq_true, beq_iff_eq, beq_iff_eq] at h
    obtain ⟨rfl, rfl⟩ := h
    exact decode_ok_of_opKKRows hp

/-- The family TableRow holds of every instruction. -/
theorem tableRow_statement : ∀ i, Laws.TableRow.Statement i
  | .cls => Laws.TableRow.cls
  | .ret => Laws.TableRow.ret
  | .jp nnn => Laws.TableRow.jp nnn
  | .call nnn => Laws.TableRow.call nnn
  | .seImm x kk => Laws.TableRow.seImm x kk
  | .sneImm x kk => Laws.TableRow.sneImm x kk
  | .seReg x y => Laws.TableRow.seReg x y
  | .ldImm x kk => Laws.TableRow.ldImm x kk
  | .addImm x kk => Laws.TableRow.addImm x kk
  | .ldReg x y => Laws.TableRow.ldReg x y
  | .or x y => Laws.TableRow.or x y
  | .and x y => Laws.TableRow.and x y
  | .xor x y => Laws.TableRow.xor x y
  | .addReg x y => Laws.TableRow.addReg x y
  | .sub x y => Laws.TableRow.sub x y
  | .shr x y => Laws.TableRow.shr x y
  | .subn x y => Laws.TableRow.subn x y
  | .shl x y => Laws.TableRow.shl x y
  | .sneReg x y => Laws.TableRow.sneReg x y
  | .ldI nnn => Laws.TableRow.ldI nnn
  | .jpV0 nnn => Laws.TableRow.jpV0 nnn
  | .rnd x kk => Laws.TableRow.rnd x kk
  | .drw x y n => Laws.TableRow.drw x y n
  | .skp x => Laws.TableRow.skp x
  | .sknp x => Laws.TableRow.sknp x
  | .ldVxDt x => Laws.TableRow.ldVxDt x
  | .ldVxK x => Laws.TableRow.ldVxK x
  | .ldDtVx x => Laws.TableRow.ldDtVx x
  | .ldStVx x => Laws.TableRow.ldStVx x
  | .addIVx x => Laws.TableRow.addIVx x
  | .ldFVx x => Laws.TableRow.ldFVx x
  | .ldBVx x => Laws.TableRow.ldBVx x
  | .ldMemVx x => Laws.TableRow.ldMemVx x
  | .ldVxMem x => Laws.TableRow.ldVxMem x

theorem encode_matches (i : Instr) : ∃ r ∈ opcodeTable, r.Matches (encode i) = true := by
  obtain ⟨r, hr, _, hw⟩ := tableRow_statement i
  exact ⟨r, hr, hw⟩

/-- Two rows that agree on the bits both masks fix are one row. -/
theorem eq_of_rows_agree : ∀ r ∈ opcodeTable, ∀ r' ∈ opcodeTable,
    r.bits &&& r'.mask = r'.bits &&& r.mask → r = r' := by
  decide

/-- A word of two rows makes them agree on the bits both masks fix. -/
theorem rows_agree_of_matches {w : Word} {r r' : OpcodeRow} (h : r.Matches w = true)
    (h' : r'.Matches w = true) : r.bits &&& r'.mask = r'.bits &&& r.mask := by
  rw [OpcodeRow.Matches, beq_iff_eq] at h h'
  rw [← h, ← h', BitVec.and_assoc, BitVec.and_assoc, BitVec.and_comm r.mask]

theorem decode_ok_iff_matches (w : Word) :
    (∃ i, decode w = .ok i) ↔ ∃ r ∈ opcodeTable, r.Matches w = true := by
  constructor
  · rintro ⟨i, hi⟩
    simpa only [encode_of_decode hi] using encode_matches i
  · rintro ⟨r, hr, hw⟩
    exact decode_ok_of_matches hr hw

/-- A word is refused, and then as InvalidOpcode, exactly when it is no instruction. -/
theorem decode_invalid_iff (w : Word) :
    decode w = .error (.invalidOpcode w) ↔ ¬ ∃ i, decode w = .ok i := by
  cases hd : decode w with
  | ok i => simp
  | error r => simp [decode_error w r hd]

end Sys2Proof

/-! ## The obligations -/

namespace Sys2Proof.Proofs

/-- Settles O23: the fields of an instruction's word are its operands. -/
theorem decodeOfEncode : Obligations.DecodeOfEncode := by
  unfold Obligations.DecodeOfEncode
  exact fun _ hi => decode_encode hi

/-- Settles O24: a word is rebuilt from the fields `decode` reads, and each field is within its range. -/
theorem encodeOfDecode : Obligations.EncodeOfDecode := by
  unfold Obligations.EncodeOfDecode
  exact fun w i h => ⟨encode_of_decode h, decode_wellFormed w i h⟩

/-- Settles O25: an instruction's word matches its own row, a word that matches a row has the fields of an
instruction, and any two rows differ in a bit that both fix. -/
theorem opcodeMapDecidesDecoding : Obligations.OpcodeMapDecidesDecoding := by
  unfold Obligations.OpcodeMapDecidesDecoding
  refine fun w => ⟨decode_ok_iff_matches w, ?_, fun r hr r' hr' h h' =>
    eq_of_rows_agree r hr r' hr' (rows_agree_of_matches h h')⟩
  rw [decode_invalid_iff, decode_ok_iff_matches]
  simp

/-- Settles O26: the model's decoder evaluated on each word. -/
theorem sampleWordsDecode : Obligations.SampleWordsDecode := by
  unfold Obligations.SampleWordsDecode
  decide

end Sys2Proof.Proofs

/-!
The statements about the step: that it always answers, what it does at each kind of fetch, what blocks it,
and which inputs an instruction reads (spec 40_step.md R131 to R139).
-/

namespace Sys2Proof.Machine

/-! ## The state at its turn -/

/-- What the start of a tick may change. -/
theorem enterTick_frame (s : State) :
    FrameOutside [.DT, .ST, .keys, .batch, .loadOpen, .env] s s.enterTick := by
  intro f hf
  cases f <;> simp [Field.Same] at hf ⊢

theorem withBatch_frame (s : State) (n : Nat) : FrameOutside [.batch] s { s with batch := n } := by
  intro f hf
  cases f <;> simp [Field.Same] at hf ⊢

/-- Between ticks the turn is the first of the next tick. -/
theorem State.atTurn_between_ticks {s : State} (h : s.batch = 0) :
    s.atTurn = { s.enterTick with batch := hardware.batch - 1 } := by
  simp [State.atTurn, h]

/-- Inside a tick the turn uses one step of the batch. -/
theorem State.atTurn_mid_tick {s : State} (h : s.batch ≠ 0) : s.atTurn = { s with batch := s.batch - 1 } := by
  simp [State.atTurn, h]

theorem atTurn_frame (s : State) : FrameOutside [.DT, .ST, .keys, .batch, .loadOpen, .env] s s.atTurn := by
  by_cases h : s.batch = 0
  · rw [State.atTurn_between_ticks h]
    exact .mono _ _ _ _ (by simp) ((enterTick_frame s).trans (withBatch_frame _ _))
  · rw [State.atTurn_mid_tick h]
    exact .mono _ _ _ _ (by simp) (withBatch_frame s _)

@[simp] theorem State.atTurn_pc (s : State) : s.atTurn.pc = s.pc := atTurn_frame s .pc (by decide)

@[simp] theorem State.atTurn_mem (s : State) : s.atTurn.mem = s.mem := by
  simp only [State.atTurn]
  split <;> simp

theorem fetch_atTurn (s : State) : fetch s.atTurn = fetch s :=
  fetch_congr s s.atTurn s.atTurn_mem s.atTurn_pc

/-! ## The step -/

/-- Below the end bound a step of the running machine is a step of the core in the state at its turn. -/
theorem step_eq_coreStep_atTurn {s : State} (hrun : s.run = .running) (hpc : s.pc.toNat < 0x1000) :
    step s = coreStep s.atTurn := by
  rw [step_of_running s hrun]
  by_cases h : s.batch = 0
  · rw [if_pos h, State.atTurn_between_ticks h, batchTurn_below_end _ (by simpa using hpc),
      State.enterTick_batch]
  · rw [if_neg h, State.atTurn_mid_tick h, batchTurn_below_end s hpc]

/-- The address in the record of a fetch fault is the lowest one out of range. -/
theorem fetch_of_ge {s : State} (h : 0xFFF ≤ s.pc.toNat) :
    fetch s = .error (.addressFault (max s.pc.toNat 0x1000)) := by
  rcases h.eq_or_lt with heq | hlt
  · rw [fetch_at_top s heq.symm, ← heq]
    rfl
  · rw [fetch_beyond s hlt, Nat.max_eq_left hlt]

theorem report_frame (s : State) (w : Word) : FrameOutside [.reports, .pc] s (s.report w) := by
  intro f hf
  cases f <;> simp [Field.Same] at hf ⊢

theorem coreStep_next (s : State) : ∃ t, coreStep s = .next t := by
  rcases coreStep_cases s _ rfl with ⟨_, _, h⟩ | ⟨_, _, _, _, h⟩ | ⟨_, i, _, _, h⟩
  · exact ⟨_, h⟩
  · exact ⟨_, h⟩
  · obtain ⟨t, ht, _⟩ := exec_cases i s
    exact ⟨t, h.trans ht⟩

theorem batchTurn_next (s : State) : ∃ t, batchTurn s = .next t := by
  rcases Nat.lt_or_ge s.pc.toNat 0x1000 with hpc | hpc
  · rw [batchTurn_below_end s hpc]
    exact coreStep_next _
  · exact ⟨_, batchTurn_at_end s hpc⟩

/-! ## Blocking (R137) -/

/-- The batch is written by a fatal error and by Fx0A only. -/
theorem eq_ldVxK_of_batch_changed {i : Instr} {s t : State} (h : exec i s = .next t)
    (hrun : t.run = .running) (hb : t.batch ≠ s.batch) : ∃ x, i = .ldVxK x := by
  obtain ⟨u, hu, hframe | ⟨e, rfl⟩⟩ := exec_frame_or_halt i s <;> cases hu.symm.trans h
  · have hw : Field.batch ∈ writtenFields i := not_not.1 fun hw => hb (hframe .batch hw)
    cases i with
    | ldVxK x => exact ⟨x, rfl⟩
    | _ => simp [writtenFields] at hw
  · cases hrun

/-- Fx0A changes the batch only when it blocks. -/
theorem execLdVxK_blocks {x : Reg} {s t : State} (h : execLdVxK x s = .next t) (hb : t.batch ≠ s.batch) :
    t = s.endBatch := by
  rcases execLdVxK_cases x s with ⟨_, _, h'⟩ | ⟨_, h'⟩ <;> cases h'.symm.trans h
  · exact absurd rfl hb
  · rfl

/-! ## The inputs an instruction reads (R139) -/

/-- The state with another latch value and other inputs to come. -/
def State.withInputs (s : State) (keys : Latch) (env : Env) : State := { s with keys := keys, env := env }

/-- The answer with its next state, if any, replaced. -/
def mapNext (f : State → State) : Answer → Answer
  | .next t => .next (f t)
  | .fault r => .fault r
  | .refused r => .refused r

@[simp] theorem State.withInputs_I (s : State) (keys : Latch) (env : Env) :
    (s.withInputs keys env).I = s.I := rfl
@[simp] theorem State.withInputs_stack (s : State) (keys : Latch) (env : Env) :
    (s.withInputs keys env).stack = s.stack := rfl
@[simp] theorem State.withInputs_keys (s : State) (keys : Latch) (env : Env) :
    (s.withInputs keys env).keys = keys := rfl
@[simp] theorem State.getV_withInputs (s : State) (keys : Latch) (env : Env) (x : Reg) :
    (s.withInputs keys env).getV x = s.getV x := rfl

/-- No instruction but Cxkk reads the inputs to come, and only Ex9E, ExA1 and Fx0A read the latch: what any
other test depends on (the stack, `I`, a register) is the same, and so is each end. -/
theorem exec_withInputs {i : Instr} {s : State} {keys : Latch} (env : Env)
    (hrnd : ¬ ∃ x kk, i = .rnd x kk) (hkeys : ReadsLatch i → keys = s.keys) :
    exec i (s.withInputs keys env) = mapNext (·.withInputs keys env) (exec i s) := by
  cases i with
  | rnd x kk => exact absurd ⟨x, kk, rfl⟩ hrnd
  | skp x =>
    cases hkeys (.inl ⟨x, rfl⟩)
    simp only [exec, execSkp, State.getV_withInputs]
    cases nibbleOperand hardware.operandRange (s.getV x) <;> rfl
  | sknp x =>
    cases hkeys (.inr (.inl ⟨x, rfl⟩))
    simp only [exec, execSknp, State.getV_withInputs]
    cases nibbleOperand hardware.operandRange (s.getV x) <;> rfl
  | ldVxK x =>
    cases hkeys (.inr (.inr ⟨x, rfl⟩))
    simp only [exec, execLdVxK, State.withInputs_keys]
    cases firstKey s.keys <;> rfl
  | ret =>
    simp only [exec, execRet, State.pop, State.withInputs_stack]
    cases s.stack.getLast? <;> rfl
  | call nnn =>
    rcases Nat.lt_or_ge s.stack.length hardware.stackDepth with h | h
    · simp only [exec, execCall, push_of_lt s _ h, push_of_lt (s.withInputs keys env) _ h]
      rfl
    · simp only [exec, execCall, push_of_ge s _ h, push_of_ge (s.withInputs keys env) _ h]
      rfl
  | ldFVx x =>
    simp only [exec, execLdFVx, State.getV_withInputs]
    cases nibbleOperand hardware.operandRange (s.getV x) <;> rfl
  | drw x y n =>
    simp only [exec, execDrw, State.withInputs_I]
    cases (if n ≥ 1 then checkRange s.I.toNat n else .ok ()) <;> rfl
  | ldBVx x =>
    simp only [exec, execLdBVx, State.withInputs_I]
    cases checkRange s.I.toNat 3 <;> rfl
  | ldMemVx x =>
    simp only [exec, execLdMemVx, State.withInputs_I]
    cases checkRange s.I.toNat (x.val + 1) <;> rfl
  | ldVxMem x =>
    simp only [exec, execLdVxMem, State.withInputs_I]
    cases checkRange s.I.toNat (x.val + 1) <;> rfl
  | _ => rfl

theorem exec_withInputs_next {i : Instr} {s t : State} {keys : Latch} (env : Env)
    (hrnd : ¬ ∃ x kk, i = .rnd x kk) (hkeys : ReadsLatch i → keys = s.keys) (h : exec i s = .next t) :
    exec i (s.withInputs keys env) = .next (t.withInputs keys env) := by
  rw [exec_withInputs env hrnd hkeys, h]
  rfl

/-- Cxkk does not read the latch, whether a byte is queued or not. -/
theorem execRnd_withKeys {x : Reg} {kk : Byte} {s t : State} (keys : Latch) (h : execRnd x kk s = .next t) :
    execRnd x kk { s with keys := keys } = .next { t with keys := keys } := by
  cases h
  simp only [execRnd, State.takeRandom]
  cases s.env.randoms <;> rfl

theorem exec_keys {i : Instr} {s t : State} (h : exec i s = .next t) : t.keys = s.keys :=
  exec_same_of_not_written (f := .keys) h (by cases i <;> simp [writtenFields]) (by decide)

/-- Only Cxkk takes from the inputs to come. -/
theorem exec_env {i : Instr} {s t : State} (hrnd : ¬ ∃ x kk, i = .rnd x kk) (h : exec i s = .next t) :
    t.env = s.env := by
  refine exec_same_of_not_written (f := .env) h ?_ (by decide)
  cases i with
  | rnd x kk => exact absurd ⟨x, kk, rfl⟩ hrnd
  | _ => simp [writtenFields]

end Sys2Proof.Machine

/-! ## The obligations -/

namespace Sys2Proof.Proofs

open Sys2Proof.Machine

/-- Settles O13: a turn of the batch ends in the end of the batch, a halt, a report or an instruction, and
each of these is a next state. -/
theorem stepAlwaysAnswersNext : Obligations.StepAlwaysAnswersNext := by
  unfold Obligations.StepAlwaysAnswersNext
  intro s
  cases hrun : s.run with
  | halted => exact ⟨s, step_of_halted s hrun⟩
  | running =>
    rw [step_of_running s hrun]
    exact batchTurn_next _

/-- Settles O16: only Fx0A can change the batch without halting, and then it blocks. -/
theorem onlyKeyWaitBlocks : Obligations.OnlyKeyWaitBlocks := by
  unfold Obligations.OnlyKeyWaitBlocks
  intro i s t h hrun hb
  obtain ⟨x, rfl⟩ := eq_ldVxK_of_batch_changed h hrun hb
  cases execLdVxK_blocks h hb
  exact ⟨⟨x, rfl⟩, rfl, endBatch_frame s⟩

/-- Settles O17: with the inputs to come as they are, only the latch is replaced, and Cxkk reads no more than
the inputs to come. -/
theorem latchReadOnlyByKeyInstructions : Obligations.LatchReadOnlyByKeyInstructions := by
  unfold Obligations.LatchReadOnlyByKeyInstructions
  intro i s t keys hi h
  by_cases hrnd : ∃ x kk, i = .rnd x kk
  · obtain ⟨x, kk, rfl⟩ := hrnd
    exact execRnd_withKeys keys h
  · have henv : t.withInputs keys s.env = { t with keys := keys } := by
      rw [← exec_env hrnd h]
      rfl
    exact henv ▸ exec_withInputs_next s.env hrnd (fun hr => absurd hr hi) h

/-- Settles O18: with the latch as it is, only the inputs to come are replaced. -/
theorem randomReadOnlyByRnd : Obligations.RandomReadOnlyByRnd := by
  unfold Obligations.RandomReadOnlyByRnd
  intro i s t env hrnd h
  have hkeys : t.withInputs s.keys env = { t with env := env } := by
    rw [← exec_keys h]
    rfl
  exact hkeys ▸ exec_withInputs_next env hrnd (fun _ => rfl) h

/-- Settles O5: the fetched word is that of the two bytes, and the turn leaves `pc` and memory alone. -/
theorem stepRunsDecodedInstruction : Obligations.StepRunsDecodedInstruction := by
  unfold Obligations.StepRunsDecodedInstruction
  intro s i hrun hpc hd
  refine ⟨?_, atTurn_frame s, fun hb => ?_⟩
  · rw [step_eq_coreStep_atTurn hrun (by omega)]
    exact coreStep_of_instr _ _ i ((fetch_atTurn s).trans (fetch_of_lt s hpc)) hd
  · rw [State.atTurn_mid_tick hb]
    exact ⟨withBatch_frame s _, rfl⟩

/-- Settles O7: the fetch faults, and a step of the core that faults is the halt. -/
theorem fetchFaultHalts : Obligations.FetchFaultHalts := by
  unfold Obligations.FetchFaultHalts
  exact ⟨fun s hpc => ⟨_, coreStep_of_fault s _ (fetch_of_ge hpc), rfl, rfl, halt_frame s _ _⟩,
    fun s hrun hpc => step_eq_coreStep_atTurn hrun (by omega)⟩

/-- Settles O8: a step of the core on a word that does not decode is the report. -/
theorem invalidWordIsReported : Obligations.InvalidWordIsReported := by
  unfold Obligations.InvalidWordIsReported
  intro s w r hf hd
  have hpc := fetch_ok_lt s w hf
  exact ⟨⟨_, coreStep_of_invalid s w r hf hd, rfl, rfl, report_frame s w⟩,
    fun hrun => step_eq_coreStep_atTurn hrun (by omega)⟩

end Sys2Proof.Proofs

/-!
The statements about control transfer: the words, targets and frames of the jumps, the call and the return,
and the skips (spec 41_control.md R151 to R158).
-/

namespace Sys2Proof.Machine

/-! ## The formats of R104 are the encoder's words -/

/-- Fields side by side are `a * 2^n + b`. -/
theorem toNat_append_eq_mul_add {m n : Nat} (a : BitVec m) (b : BitVec n) :
    (a ++ b).toNat = a.toNat * 2 ^ n + b.toNat := by
  rw [BitVec.toNat_append, ← Nat.shiftLeft_add_eq_or_of_lt b.isLt, Nat.shiftLeft_eq]

@[simp] theorem zext_toNat (nnn : BitVec 12) : (zext nnn).toNat = nnn.toNat :=
  BitVec.toNat_setWidth_of_le (by decide)

theorem addressImmOk_zext (nnn : BitVec 12) : addressImmOk (zext nnn) = true := by
  rw [addressImmOk, zext_toNat]
  exact decide_eq_true nnn.isLt

theorem nnnWord_zext (op : BitVec 4) (nnn : BitVec 12) : nnnWord op.toNat (zext nnn) = formatNNN op nnn := by
  have := nnn.isLt
  apply BitVec.eq_of_toNat_eq
  rw [nnnWord_toNat _ _ op.isLt, zext_toNat, formatNNN, toNat_append_eq_mul_add]
  omega

theorem xkkWord_eq_formatXKK (op : BitVec 4) (x : Reg) (kk : Byte) :
    xkkWord op.toNat x kk = formatXKK op x kk := by
  apply BitVec.eq_of_toNat_eq
  rw [xkkWord_toNat _ _ _ op.isLt, formatXKK]
  simp only [toNat_append_eq_mul_add, BitVec.toNat_ofFin]
  omega

theorem xynWord_eq_formatXYN (op : BitVec 4) (x y : Reg) (n : BitVec 4) :
    xynWord op.toNat x y n.toNat = formatXYN op x y n := by
  have := n.isLt
  apply BitVec.eq_of_toNat_eq
  rw [xynWord_toNat _ _ _ _ op.isLt, formatXYN]
  simp only [toNat_append_eq_mul_add, BitVec.toNat_ofFin]
  omega

/-- The word of a well-formed instruction spells it: decoding it is the round trip. -/
theorem spells_of_encode {w : Word} {i : Instr} (hi : i.WellFormed = true) (hw : encode i = w) : Spells w i :=
  ⟨hw ▸ decode_encode hi, hw⟩

/-! ## Jumps -/

/-- The target of Bnnn does not wrap (decision D26). -/
theorem zext_add_byte_toNat (nnn : BitVec 12) (b : Byte) :
    (zext nnn + b.setWidth 16).toNat = nnn.toNat + b.toNat := by
  have := nnn.isLt
  have := b.isLt
  simp only [BitVec.toNat_add, BitVec.toNat_setWidth, zext_toNat]
  omega

/-! ## Skips -/

/-- What a skip on `c` does, with `c` read as the proposition it tests. -/
theorem skips_of_exec {i : Instr} {s : State} {c : Bool} {P : Prop} [Decidable P]
    (h : exec i s = .next (s.skipWhen c)) (hc : c = true ↔ P) :
    ∃ t, exec i s = .next t ∧ t.pc = s.pc + (if P then 4 else 2) ∧ FrameOutside [.pc] s t :=
  ⟨_, h, by simp only [State.skipWhen_pc, hc], skipWhen_frame s c⟩

/-! ## Call and return -/

/-- A jump with another stack: what CALL and RET come to when they raise no fatal error. -/
theorem withStack_jump_frame (s : State) (l : List Word) (a : Word) :
    FrameOutside [.pc, .stack] s ({ s with stack := l }.jump a) :=
  .mono _ _ _ _ (by simp) ((withStack_frame s l).trans (jump_frame _ a))

theorem exec_call_of_lt (nnn : Word) {s : State} (h : s.stack.length < 16) :
    exec (.call nnn) s = .next ({ s with stack := s.stack ++ [s.pc + 2] }.jump nnn) :=
  ((execCall_cases nnn s).resolve_left fun hfull => Nat.not_le.2 h hfull.1).2

theorem exec_call_of_ge (nnn : Word) {s : State} (h : 16 ≤ s.stack.length) :
    exec (.call nnn) s = .next (s.halt .stackOverflow (some (encode (.call nnn)))) :=
  ((execCall_cases nnn s).resolve_right fun hroom => Nat.not_lt.2 h hroom.1).2

theorem exec_ret_of_concat {s : State} {rest : List Word} {r : Word} (h : s.stack = rest ++ [r]) :
    exec .ret s = .next ({ s with stack := rest }.jump r) := by
  simp only [exec, execRet, pop_concat s rest r h, complete_ok]

theorem exec_ret_of_nil {s : State} (h : s.stack = []) :
    exec .ret s = .next (s.halt .stackUnderflow (some (encode .ret))) := by
  simp only [exec, execRet, pop_nil s h, complete_error]

end Sys2Proof.Machine

/-! ## The obligations -/

namespace Sys2Proof.Proofs

open Sys2Proof.Machine

/-- Settles O31: the return address is on top of the stack that the call leaves, above the stack before it. -/
theorem callThenReturnComesBack : Obligations.CallThenReturnComesBack := by
  unfold Obligations.CallThenReturnComesBack
  intro nnn s t u v hroom hcall hstack hret
  cases (exec_call_of_lt nnn hroom).symm.trans hcall
  cases (exec_ret_of_concat hstack).symm.trans hret
  exact ⟨rfl, rfl⟩

/-- Settles O27: the target is the 12-bit field, zero-extended. -/
theorem jumpSetsPc : Obligations.JumpSetsPc := by
  unfold Obligations.JumpSetsPc
  exact fun nnn s => ⟨spells_of_encode (addressImmOk_zext nnn) (nnnWord_zext 0x1 nnn),
    _, rfl, zext_toNat nnn, jump_frame s _⟩

/-- Settles O28: the 16-bit sum of a 12-bit field and a byte does not wrap. -/
theorem jumpIndexedByV0 : Obligations.JumpIndexedByV0 := by
  unfold Obligations.JumpIndexedByV0
  exact fun nnn s => ⟨spells_of_encode (addressImmOk_zext nnn) (nnnWord_zext 0xB nnn),
    _, rfl, zext_add_byte_toNat nnn _, jump_frame s _⟩

/-- Settles O29: the two ends of CALL, by the room on the stack. -/
theorem callPushesReturnAddress : Obligations.CallPushesReturnAddress := by
  unfold Obligations.CallPushesReturnAddress
  exact fun nnn s => ⟨spells_of_encode (addressImmOk_zext nnn) (nnnWord_zext 0x2 nnn),
    fun hroom => ⟨_, exec_call_of_lt _ hroom, rfl, zext_toNat nnn, withStack_jump_frame s _ _⟩,
    fun hfull => haltsWith_of_exec (exec_call_of_ge _ hfull)⟩

/-- Settles O30: the two ends of RET, by the top of the stack. -/
theorem returnPopsStack : Obligations.ReturnPopsStack := by
  unfold Obligations.ReturnPopsStack
  exact ⟨spells_of_encode rfl rfl,
    fun s rest r htop => ⟨_, exec_ret_of_concat htop, rfl, rfl, withStack_jump_frame s rest r⟩,
    fun s hempty => haltsWith_of_exec (exec_ret_of_nil hempty)⟩

/-- Settles O32: both are skips, on the byte being `kk` and on its being another. -/
theorem skipOnImmediate : Obligations.SkipOnImmediate := by
  unfold Obligations.SkipOnImmediate
  exact fun x kk s =>
    ⟨⟨spells_of_encode rfl (xkkWord_eq_formatXKK 0x3 x kk), skips_of_exec rfl beq_iff_eq⟩,
      ⟨spells_of_encode rfl (xkkWord_eq_formatXKK 0x4 x kk), skips_of_exec rfl bne_iff_ne⟩⟩

/-- Settles O33: both are skips, on the registers being equal and on their differing. -/
theorem skipOnRegisters : Obligations.SkipOnRegisters := by
  unfold Obligations.SkipOnRegisters
  exact fun x y s =>
    ⟨⟨spells_of_encode rfl (xynWord_eq_formatXYN 0x5 x y 0x0), skips_of_exec rfl beq_iff_eq⟩,
      ⟨spells_of_encode rfl (xynWord_eq_formatXYN 0x9 x y 0x0), skips_of_exec rfl bne_iff_ne⟩⟩

end Sys2Proof.Proofs

/-!
The statements about the register loads, arithmetic, logic, the shifts and the random byte: the words,
results, flags and frames (spec 42_alu.md R171 to R183).
-/

namespace Sys2Proof.Machine

/-! ## One register written -/

section
variable (s : State) (x : Reg) (v : Byte)

@[simp] theorem State.getV_advance (r : Reg) : s.advance.getV r = s.getV r := rfl

/-- What an instruction that writes its result and no flag (6xkk, 7xkk, 8xy0) leaves. -/
theorem setV_advance_keeps :
    (∀ r, r ≠ x → (s.setV x v).advance.getV r = s.getV r) ∧ (s.setV x v).advance.pc = s.pc + 2 ∧
      FrameOutside [.V, .pc] s (s.setV x v).advance :=
  ⟨fun r hr => State.getV_setV_of_ne s x r v hr, rfl, (setV_frame s x v).trans (advance_frame _)⟩

end

/-! ## A result, then its flag (R182) -/

section
variable (s : State) (x : Reg) (v f : Byte)

@[simp] theorem State.getV_setWithFlag_VF : (s.setWithFlag x v f).getV VF = f :=
  State.getV_setV_self (s.setV x v) VF f

/-- In a register other than `VF` the result stays. -/
theorem State.getV_setWithFlag_result (hx : x ≠ VF) : (s.setWithFlag x v f).getV x = v := by
  rw [State.getV_setWithFlag, if_neg hx, if_pos rfl]

theorem State.getV_setWithFlag_of_ne {r : Reg} (hx : r ≠ x) (hF : r ≠ VF) :
    (s.setWithFlag x v f).getV r = s.getV r := by
  rw [State.getV_setWithFlag, if_neg hF, if_neg hx]

theorem setWithFlag_advance_frame : FrameOutside [.V, .pc] s (s.setWithFlag x v f).advance :=
  (setWithFlag_frame s x v f).trans (advance_frame _)

/-- What an instruction that writes its result and its flag (8xy1 to 8xyE) leaves. -/
theorem setWithFlag_advance_keeps :
    (∀ r, r ≠ x → r ≠ VF → (s.setWithFlag x v f).advance.getV r = s.getV r) ∧
      (s.setWithFlag x v f).advance.pc = s.pc + 2 ∧
      FrameOutside [.V, .pc] s (s.setWithFlag x v f).advance :=
  ⟨fun _ hx hF => State.getV_setWithFlag_of_ne s x v f hx hF, rfl, setWithFlag_advance_frame s x v f⟩

end

/-- With `VF` as destination the flag, of value `n`, stays and no other register changes (decision D9). -/
theorem flag_stays_of_exec {i : Instr} {s : State} {v f : Byte} {n : Nat}
    (h : exec i s = .next (s.setWithFlag VF v f).advance) (hf : f.toNat = n) :
    ∃ t, exec i s = .next t ∧ (t.getV VF).toNat = n ∧ (∀ r, r ≠ VF → t.getV r = s.getV r) ∧
      t.pc = s.pc + 2 ∧ FrameOutside [.V, .pc] s t :=
  ⟨_, h, by rw [State.getV_advance, State.getV_setWithFlag_VF, hf],
    fun _ hr => State.getV_setWithFlag_of_ne s VF v f hr hr, rfl, setWithFlag_advance_frame s VF v f⟩

/-! ## The flags as numbers (R177 to R181) -/

theorem flagByte_decide (p : Prop) [Decidable p] : flagByte (decide p) = if p then 1 else 0 := by
  simp only [flagByte, decide_eq_true_eq]

theorem flagByte_decide_toNat (p : Prop) [Decidable p] :
    (flagByte (decide p)).toNat = if p then 1 else 0 := by
  rw [flagByte_decide]
  split <;> rfl

/-- Bit 0 of a byte is set when the byte is odd. -/
theorem lowBitFlag_toNat (b : Byte) : (lowBitFlag b).toNat = b.toNat % 2 := by
  have hbit : b.getLsbD 0 = decide (b.toNat % 2 = 1) := Nat.testBit_zero b.toNat
  rw [lowBitFlag, hbit, flagByte_decide_toNat]
  split <;> omega

/-- Bit 7 of a byte is set when the byte is at least 128. -/
theorem highBitFlag_toNat (b : Byte) : (highBitFlag b).toNat = b.toNat / 128 := by
  have hb := b.isLt
  have hbit : b.getLsbD 7 = decide (128 ≤ b.toNat) := BitVec.msb_eq_decide b
  rw [highBitFlag, hbit, flagByte_decide_toNat]
  split <;> omega

/-! ## The results as numbers (R178 to R181) -/

/-- `a + 256 - b` is not negative, and its residue is the difference mod 256. -/
theorem byte_sub_toNat (a b : Byte) : (a - b).toNat = (a.toNat + 256 - b.toNat) % 256 := by
  have := b.isLt
  rw [BitVec.toNat_sub]
  omega

theorem byte_shr_toNat (b : Byte) : (b >>> 1).toNat = b.toNat / 2 := by
  rw [BitVec.toNat_ushiftRight, Nat.shiftRight_one]

theorem byte_shl_toNat (b : Byte) : (b <<< 1).toNat = b.toNat * 2 % 256 := by
  rw [BitVec.toNat_shiftLeft, Nat.shiftLeft_eq]

/-! ## The random byte (R183) -/

/-- A queued byte is the one taken, and it is used up. -/
theorem takeRandom_of_queued {s : State} {b : Byte} {rest : List Byte} (h : s.env.randoms = b :: rest) :
    s.takeRandom.1 = b ∧ s.takeRandom.2.env.randoms = rest := by
  simp [State.takeRandom, h]

theorem takeRandom_of_none_queued {s : State} (h : s.env.randoms = []) :
    s.takeRandom.2.env.randoms = [] := by
  simp [State.takeRandom, h]

@[simp] theorem State.takeRandom_latches (s : State) : s.takeRandom.2.env.latches = s.env.latches := by
  unfold State.takeRandom
  split <;> rfl

@[simp] theorem State.getV_takeRandom (s : State) (r : Reg) : s.takeRandom.2.getV r = s.getV r :=
  State.getV_congr s _ s.takeRandom_V r

/-- What RND leaves: it takes from the inputs to come and writes one register. -/
theorem takeRandom_setV_advance_frame (s : State) (x : Reg) (v : Byte) :
    FrameOutside [.V, .pc, .env] s (s.takeRandom.2.setV x v).advance :=
  .mono _ _ _ _ (by simp)
    ((takeRandom_frame s).trans ((setV_frame _ x v).trans (advance_frame _)))

end Sys2Proof.Machine

/-! ## The obligations -/

namespace Sys2Proof.Proofs

open Sys2Proof.Machine

/-- Settles O34: one register is written, with the immediate. -/
theorem loadImmediate : Obligations.LoadImmediate := by
  unfold Obligations.LoadImmediate
  exact fun x kk s => ⟨spells_of_encode rfl (xkkWord_eq_formatXKK 0x6 x kk),
    _, rfl, State.getV_setV_self s x kk, setV_advance_keeps s x kk⟩

/-- Settles O35: one register is written, with the sum of bytes. -/
theorem addImmediateWraps : Obligations.AddImmediateWraps := by
  unfold Obligations.AddImmediateWraps
  refine fun x kk s => ⟨spells_of_encode rfl (xkkWord_eq_formatXKK 0x7 x kk),
    _, rfl, ?_, setV_advance_keeps s x _⟩
  rw [State.getV_advance, State.getV_setV_self, BitVec.toNat_add]

/-- Settles O36: one register is written, with the other's value. -/
theorem copyRegister : Obligations.CopyRegister := by
  unfold Obligations.CopyRegister
  exact fun x y s => ⟨spells_of_encode rfl (xynWord_eq_formatXYN 0x8 x y 0x0),
    _, rfl, State.getV_setV_self s x _, setV_advance_keeps s x _⟩

/-- Settles O37: the three differ in the operation on each bit; the flag written after the result is 0. -/
theorem logicClearsFlag : Obligations.LogicClearsFlag := by
  unfold Obligations.LogicClearsFlag
  intro x y s hx
  refine ⟨⟨spells_of_encode rfl (xynWord_eq_formatXYN 0x8 x y 0x1), _, rfl, fun b _ => ?_,
      State.getV_setWithFlag_VF s x _ 0, setWithFlag_advance_keeps s x _ 0⟩,
    ⟨spells_of_encode rfl (xynWord_eq_formatXYN 0x8 x y 0x2), _, rfl, fun b _ => ?_,
      State.getV_setWithFlag_VF s x _ 0, setWithFlag_advance_keeps s x _ 0⟩,
    ⟨spells_of_encode rfl (xynWord_eq_formatXYN 0x8 x y 0x3), _, rfl, fun b _ => ?_,
      State.getV_setWithFlag_VF s x _ 0, setWithFlag_advance_keeps s x _ 0⟩⟩
  all_goals rw [State.getV_advance, State.getV_setWithFlag_result _ _ _ _ hx]
  · exact BitVec.getLsbD_or
  · exact BitVec.getLsbD_and
  · exact BitVec.getLsbD_xor

/-- Settles O38: the sum of bytes is the sum mod 256, and the flag tests the sum before it is reduced. -/
theorem addSetsCarry : Obligations.AddSetsCarry := by
  unfold Obligations.AddSetsCarry
  refine fun x y s hx => ⟨spells_of_encode rfl (xynWord_eq_formatXYN 0x8 x y 0x4), _, rfl, ?_,
    (State.getV_setWithFlag_VF s x _ _).trans (flagByte_decide _), setWithFlag_advance_keeps s x _ _⟩
  rw [State.getV_advance, State.getV_setWithFlag_result _ _ _ _ hx, BitVec.toNat_add]

/-- Settles O39: SUB and SUBN are one difference and one comparison with the operands exchanged. -/
theorem subtractSetsNotBorrow : Obligations.SubtractSetsNotBorrow := by
  unfold Obligations.SubtractSetsNotBorrow
  intro x y s hx
  refine ⟨⟨spells_of_encode rfl (xynWord_eq_formatXYN 0x8 x y 0x5), _, rfl, ?_,
      (State.getV_setWithFlag_VF s x _ _).trans (flagByte_decide _), setWithFlag_advance_keeps s x _ _⟩,
    ⟨spells_of_encode rfl (xynWord_eq_formatXYN 0x8 x y 0x7), _, rfl, ?_,
      (State.getV_setWithFlag_VF s x _ _).trans (flagByte_decide _), setWithFlag_advance_keeps s x _ _⟩⟩
  all_goals rw [State.getV_advance, State.getV_setWithFlag_result _ _ _ _ hx, byte_sub_toNat]

/-- Settles O40: a shift by one is a division or a product by 2, and the flag is the bit it loses. -/
theorem shiftTakesVy : Obligations.ShiftTakesVy := by
  unfold Obligations.ShiftTakesVy
  intro x y s hx
  refine ⟨⟨spells_of_encode rfl (xynWord_eq_formatXYN 0x8 x y 0x6), _, rfl, ?_, ?_,
      setWithFlag_advance_keeps s x _ _⟩,
    ⟨spells_of_encode rfl (xynWord_eq_formatXYN 0x8 x y 0xE), _, rfl, ?_, ?_,
      setWithFlag_advance_keeps s x _ _⟩⟩
  · rw [State.getV_advance, State.getV_setWithFlag_result _ _ _ _ hx, byte_shr_toNat]
  · rw [State.getV_advance, State.getV_setWithFlag_VF, lowBitFlag_toNat]
  · rw [State.getV_advance, State.getV_setWithFlag_result _ _ _ _ hx, byte_shl_toNat]
  · rw [State.getV_advance, State.getV_setWithFlag_VF, highBitFlag_toNat]

/-- Settles O41: each of the eight writes its flag after its result, and the flag has the value listed. -/
theorem flagWinsInVF : Obligations.FlagWinsInVF := by
  unfold Obligations.FlagWinsInVF
  intro y s vf vy i f hi
  simp only [List.mem_cons, Prod.mk.injEq, List.not_mem_nil, or_false] at hi
  obtain ⟨rfl, rfl⟩ | ⟨rfl, rfl⟩ | ⟨rfl, rfl⟩ | ⟨rfl, rfl⟩ | ⟨rfl, rfl⟩ | ⟨rfl, rfl⟩ | ⟨rfl, rfl⟩ |
    ⟨rfl, rfl⟩ := hi
  iterate 3 exact flag_stays_of_exec rfl rfl
  · exact flag_stays_of_exec rfl (flagByte_decide_toNat _)
  · exact flag_stays_of_exec rfl (flagByte_decide_toNat _)
  · exact flag_stays_of_exec rfl (lowBitFlag_toNat _)
  · exact flag_stays_of_exec rfl (flagByte_decide_toNat _)
  · exact flag_stays_of_exec rfl (highBitFlag_toNat _)

/-- Settles O42: the byte is the one taken from the inputs to come. -/
theorem randomByteIsMasked : Obligations.RandomByteIsMasked := by
  unfold Obligations.RandomByteIsMasked
  intro x kk s
  refine ⟨spells_of_encode rfl (xkkWord_eq_formatXKK 0xC x kk), _, s.takeRandom.1, rfl,
    State.getV_setV_self _ x _, fun _ _ hq => ?_, takeRandom_of_none_queued, s.takeRandom_latches,
    fun r hr => ?_, ?_, takeRandom_setV_advance_frame s x _⟩
  · exact takeRandom_of_queued hq
  · rw [State.getV_advance, State.getV_setV_of_ne _ _ _ _ hr, State.getV_takeRandom]
  · rw [State.advance_pc, State.setV_pc, State.takeRandom_pc]

end Sys2Proof.Proofs

/-!
The statements about the address register and memory operands: the block check, the writers of `I`, the
decimal digits, and the block stores and loads of registers (spec 43_index_memory.md R200 to R207).
-/

namespace Sys2Proof.Machine

/-! ## The block check (R204) -/

/-- The block of a check that fails has cells above 0xFFF, and the error names the lowest of them. -/
theorem checkRange_error {base count : Nat} {e : FatalError} (h : checkRange base count = .error e) :
    0xFFF < base + count - 1 ∧ e = .addressFault (max base 0x1000) := by
  rcases Nat.lt_or_ge 0xFFF (base + count - 1) with hgt | hle
  · cases (checkRange_of_gt base count hgt).symm.trans h
    exact ⟨hgt, rfl⟩
  · cases (checkRange_of_le base count hle).symm.trans h

/-! ## Writers of `I` (R200 to R202) -/

/-- What an instruction that writes `I` only (Annn, Fx1E, Fx29) leaves. -/
theorem setI_advance_frame (s : State) (v : Word) : FrameOutside [.I, .pc] s (s.setI v).advance :=
  (setI_frame s v).trans (advance_frame _)

theorem exec_ldFVx_of_lt {x : Reg} {s : State} (h : (s.getV x).toNat < 16) :
    exec (.ldFVx x) s = .next (s.setI (glyphAddress ⟨(s.getV x).toNat, h⟩)).advance := by
  rcases execLdFVx_cases x s with ⟨hge, _⟩ | ⟨_, hnext⟩
  · omega
  · exact hnext

theorem ldFVx_haltsWith {x : Reg} {s : State} (h : 0xF < (s.getV x).toNat) :
    HaltsWith (.ldFVx x) s (.operandRange (s.getV x)) := by
  rcases execLdFVx_cases x s with ⟨_, hhalt⟩ | ⟨hlt, _⟩
  · exact haltsWith_of_exec hhalt
  · omega

/-- The glyphs lie 5 bytes apart from address 0 on (decision D13). -/
theorem glyphAddress_toNat_eq (d : Fin 16) : (glyphAddress d).toNat = 5 * d.val :=
  (glyphAddress_toNat d).trans (Nat.zero_add _)

/-! ## Block stores (R203, R205) -/

/-- A block write leaves the cells below and above its block. -/
theorem Memory.read_writeBlock_outside {m : Memory} (hm : m.wf = true) {a : Nat} {bs : List Byte}
    (ha : a + bs.length ≤ memSize) {c : Nat} (hc : c < a ∨ a + bs.length ≤ c) :
    (m.writeBlock a bs).read c = m.read c := by
  rw [Memory.read_writeBlock bs m hm a ha, if_neg (by omega)]

/-- The digits of a byte as numbers. -/
theorem decimalDigits_getD_toNat (v : Byte) :
    ((decimalDigits v).getD 0 0).toNat = v.toNat / 100 ∧
    ((decimalDigits v).getD 1 0).toNat = v.toNat / 10 % 10 ∧
    ((decimalDigits v).getD 2 0).toNat = v.toNat % 10 := by
  have hfits {d : Nat} (hd : d < 256) : (BitVec.ofNat 8 d).toNat = d := Nat.mod_eq_of_lt hd
  have := v.isLt
  exact ⟨hfits (by omega), hfits (by omega), hfits (by omega)⟩

theorem exec_ldBVx_of_le (x : Reg) {s : State} (h : s.I.toNat + 2 ≤ 0xFFF) :
    exec (.ldBVx x) s =
      .next { s with mem := s.mem.writeBlock s.I.toNat (decimalDigits (s.getV x)) }.advance :=
  ((execLdBVx_cases x s).resolve_left fun hout => Nat.not_lt.2 h hout.1).2

theorem exec_ldMemVx_of_le {x : Reg} {s : State} (h : s.I.toNat + x.val ≤ 0xFFF) :
    exec (.ldMemVx x) s = .next ({ s with mem := s.mem.writeBlock s.I.toNat (s.firstRegs x) }.setI
      (wrapI hardware.iWrap (s.I.toNat + x.val + 1))).advance :=
  ((execLdMemVx_cases x s).resolve_left fun hout => Nat.not_lt.2 h hout.1).2

theorem withMem_advance_frame (s : State) (m : Memory) :
    FrameOutside [.mem, .pc] s { s with mem := m }.advance :=
  (withMem_frame s m).trans (advance_frame _)

theorem withMem_setI_advance_frame (s : State) (m : Memory) (v : Word) :
    FrameOutside [.mem, .I, .pc] s ({ s with mem := m }.setI v).advance :=
  (withMem_frame s m).trans (setI_advance_frame _ v)

/-! ## The block load (R206) -/

theorem exec_ldVxMem_of_le {x : Reg} {s : State} (h : s.I.toNat + x.val ≤ 0xFFF) :
    exec (.ldVxMem x) s = .next ((s.loadRegs x s.I.toNat).setI
      (wrapI hardware.iWrap (s.I.toNat + x.val + 1))).advance :=
  ((execLdVxMem_cases x s).resolve_left fun hout => Nat.not_lt.2 h hout.1).2

theorem loadRegs_setI_advance_frame (s : State) (x : Reg) (a : Nat) (v : Word) :
    FrameOutside [.V, .I, .pc] s ((s.loadRegs x a).setI v).advance :=
  (loadRegs_frame s x a).trans (setI_advance_frame _ v)

end Sys2Proof.Machine

/-! ## The obligations -/

namespace Sys2Proof.Proofs

open Sys2Proof.Machine

/-- Settles O56: the block has at least one cell, so the check on its last one decides; the lowest cell out
of range is the first of the block or 0x1000. -/
theorem blockCheckIsExact : Obligations.BlockCheckIsExact := by
  unfold Obligations.BlockCheckIsExact
  refine fun base count hcount => ⟨?passes, fun e he => ?fails⟩
  case passes =>
    rw [checkRange_ok_iff]
    refine ⟨fun hlast a _ hlt => by omega, fun hall => ?_⟩
    exact hall (base + count - 1) (by omega) (by omega)
  case fails =>
    obtain ⟨hlast, rfl⟩ := checkRange_error he
    exact ⟨_, rfl, by omega, by omega, by omega, fun b _ hlt => by omega⟩

/-- Settles O43: `I` takes the 12-bit field, zero-extended. -/
theorem loadIndex : Obligations.LoadIndex := by
  unfold Obligations.LoadIndex
  exact fun nnn s => ⟨spells_of_encode (addressImmOk_zext nnn) (nnnWord_zext 0xA nnn),
    _, rfl, zext_toNat nnn, rfl, setI_advance_frame s _⟩

/-- Settles O44: this hardware reduces a computed `I` to 12 bits. -/
theorem addToIndexWraps : Obligations.AddToIndexWraps := by
  unfold Obligations.AddToIndexWraps
  exact fun x s => ⟨spells_of_encode rfl (xkkWord_eq_formatXKK 0xF x 0x1E),
    _, rfl, wrapI_mask12_toNat _, rfl, setI_advance_frame s _⟩

/-- Settles O45: the two ends of LD_F_VX, by the value being a digit. -/
theorem glyphAddressOfDigit : Obligations.GlyphAddressOfDigit := by
  unfold Obligations.GlyphAddressOfDigit
  exact fun x s => ⟨spells_of_encode rfl (xkkWord_eq_formatXKK 0xF x 0x29),
    fun hdigit => ⟨_, exec_ldFVx_of_lt (Nat.lt_succ_of_le hdigit), glyphAddress_toNat_eq _, rfl,
      setI_advance_frame s _⟩,
    ldFVx_haltsWith⟩

/-- Settles O46: the two ends of LD_B_VX, by the three cells existing; the store is a block write of the
digits. -/
theorem storeDecimalDigits : Obligations.StoreDecimalDigits := by
  unfold Obligations.StoreDecimalDigits
  refine fun x s hm => ⟨spells_of_encode rfl (xkkWord_eq_formatXKK 0xF x 0x33), fun hle => ?_,
    fun hgt => ⟨_, ldBVx_haltsWith x hgt⟩⟩
  have hlen := decimalDigits_length (s.getV x)
  have hblock : s.I.toNat + (decimalDigits (s.getV x)).length ≤ memSize := by
    simp only [hlen, memSize]
    omega
  have hcell {k : Nat} (hk : k < 3) := Memory.read_writeBlock_inside hm hblock (hlen.symm ▸ hk)
  obtain ⟨hundreds, tens, ones⟩ := decimalDigits_getD_toNat (s.getV x)
  exact ⟨_, exec_ldBVx_of_le x hle,
    (congrArg BitVec.toNat (hcell (k := 0) (by decide))).trans hundreds,
    (congrArg BitVec.toNat (hcell (k := 1) (by decide))).trans tens,
    (congrArg BitVec.toNat (hcell (k := 2) (by decide))).trans ones,
    fun a ha => Memory.read_writeBlock_outside hm hblock (by omega), rfl, withMem_advance_frame s _⟩

/-- Settles O47: the two ends of LD_MEM_VX, by the block existing; the store is a block write of the
registers. -/
theorem storeRegisters : Obligations.StoreRegisters := by
  unfold Obligations.StoreRegisters
  refine fun x s hm => ⟨spells_of_encode rfl (xkkWord_eq_formatXKK 0xF x 0x55), fun hle => ?_,
    fun hgt => ⟨_, ldMemVx_haltsWith hgt⟩⟩
  have hlen := firstRegs_length s x
  have hblock : s.I.toNat + (s.firstRegs x).length ≤ memSize := by
    simp only [hlen, memSize]
    omega
  refine ⟨_, exec_ldMemVx_of_le hle, fun k hk => ?_,
    fun a ha => Memory.read_writeBlock_outside hm hblock (by omega), rfl, rfl,
    withMem_setI_advance_frame s _ _⟩
  have hkx : k.val < x.val + 1 := Nat.lt_succ_of_le hk
  exact (Memory.read_writeBlock_inside hm hblock (hlen.symm ▸ hkx)).trans
    (firstRegs_getD s x k.val hkx k.isLt)

/-- Settles O48: the two ends of LD_VX_MEM, by the block existing; the load replaces registers up to `x`. -/
theorem loadRegisters : Obligations.LoadRegisters := by
  unfold Obligations.LoadRegisters
  refine fun x s => ⟨spells_of_encode rfl (xkkWord_eq_formatXKK 0xF x 0x65), fun hle => ?_,
    fun hgt => ⟨_, ldVxMem_haltsWith hgt⟩⟩
  have hread (k : Reg) := State.getV_loadRegs s x k s.I.toNat
  exact ⟨_, exec_ldVxMem_of_le hle, fun k hk => (hread k).trans (if_pos hk),
    fun k hk => (hread k).trans (if_neg (Fin.not_le.2 hk)), rfl, rfl,
    loadRegs_setI_advance_frame s x _ _⟩

/-- Settles O58: each policy by its own law. -/
theorem parameterPoliciesReduce : Obligations.ParameterPoliciesReduce := by
  unfold Obligations.ParameterPoliciesReduce
  exact ⟨fun v => ⟨wrapI_mask12_toNat v, wrapI_wrap16_toNat v⟩,
    fun p v hdigit => ⟨_, nibbleOperand_of_lt p v (Nat.lt_succ_of_le hdigit), rfl⟩,
    fun v hout => ⟨nibbleOperand_fault v hout, _, nibbleOperand_mask v hout, rfl⟩⟩

end Sys2Proof.Proofs

/-!
The statements about the display: CLS, what DRW does to the pixels and to `VF`, and drawing twice
(spec 44_display.md R220 to R224).
-/

namespace Sys2Proof.Machine

/-! ## Blits by the pixels they flip (R221 to R223) -/

/-- `b'` is `b` with the pixels of `S` flipped, and has a collision where `b` has one or a pixel of `S`
was set. -/
structure Blit.Flips (b : Blit) (S : Nat → Nat → Prop) (b' : Blit) : Prop where
  pixel : ∀ px < 64, ∀ py < 32, b'.disp.pixel px py = true ↔ ¬ (b.disp.pixel px py = true ↔ S px py)
  collision : b'.collision = true ↔
    b.collision = true ∨ ∃ px < 64, ∃ py < 32, b.disp.pixel px py = true ∧ S px py

/-- Flipping no pixel changes nothing. -/
theorem Blit.Flips.refl (b : Blit) {S : Nat → Nat → Prop} (hS : ∀ px py, ¬ S px py) : b.Flips S b where
  pixel px _ py _ := by simp [hS px py]
  collision := by simp [hS]

/-- Two blits in a row flip the union of their pixels where the two have none in common: the second then
finds its own pixels as they were before the first. -/
theorem Blit.Flips.trans {b b' b'' : Blit} {S T U : Nat → Nat → Prop} (h : b.Flips S b')
    (h' : b'.Flips T b'') (hU : ∀ px py, U px py ↔ S px py ∨ T px py)
    (hdisj : ∀ px py, S px py → ¬ T px py) : b.Flips U b'' where
  pixel px hx py hy := by
    have hST := hdisj px py
    rw [h'.pixel px hx py hy, h.pixel px hx py hy, hU]
    tauto
  collision := by
    have hkept : ∀ px < 64, ∀ py < 32,
        (b'.disp.pixel px py = true ∧ T px py ↔ b.disp.pixel px py = true ∧ T px py) := by
      intro px hx py hy
      have hST := hdisj px py
      rw [h.pixel px hx py hy]
      tauto
    rw [h'.collision, h.collision, or_assoc]
    refine or_congr_right ⟨?_, ?_⟩
    · rintro (⟨px, hx, py, hy, hset, hS⟩ | ⟨px, hx, py, hy, hT⟩)
      · exact ⟨px, hx, py, hy, hset, (hU px py).2 (.inl hS)⟩
      · obtain ⟨hset, hT⟩ := (hkept px hx py hy).1 hT
        exact ⟨px, hx, py, hy, hset, (hU px py).2 (.inr hT)⟩
    · rintro ⟨px, hx, py, hy, hset, hUp⟩
      rcases (hU px py).1 hUp with hS | hT
      · exact .inl ⟨px, hx, py, hy, hset, hS⟩
      · exact .inr ⟨px, hx, py, hy, (hkept px hx py hy).2 ⟨hset, hT⟩⟩

/-- One sprite bit flips the pixel it lies on. -/
theorem Blit.bit_flips (b : Blit) (x y : Nat) (on : Bool) :
    b.Flips (fun px py => on = true ∧ x % 64 = px ∧ y % 32 = py) (b.bit x y on) where
  pixel px hx py hy := by
    rw [Blit.bit_pixel, Nat.mod_eq_of_lt hx, Nat.mod_eq_of_lt hy]
    split
    · next hcovers => simp [iff_true_intro hcovers]
    · next hmisses => simp [iff_false_intro hmisses]
  collision := by
    rw [Blit.bit_collision, Bool.or_eq_true, Bool.and_eq_true]
    refine or_congr_right ⟨fun ⟨hon, hset⟩ => ?_, ?_⟩
    · exact ⟨x % 64, Nat.mod_lt _ (by decide), y % 32, Nat.mod_lt _ (by decide),
        (Display.pixel_mod ..).trans hset, hon, rfl, rfl⟩
    · rintro ⟨_, _, _, _, hset, hon, rfl, rfl⟩
      exact ⟨hon, (Display.pixel_mod ..).symm.trans hset⟩

/-- Columns `c` to `c + left - 1` of a sprite row drawn at column `x` and row `y` have a 1 at the pixel. -/
def RowCovers (row : Byte) (x y c left px py : Nat) : Prop :=
  ∃ k, c ≤ k ∧ k < c + left ∧ (x + k) % 64 = px ∧ y % 32 = py ∧ row.getLsbD (7 - k) = true

/-- The leftmost column and the others. -/
theorem rowCovers_succ (row : Byte) (x y c left px py : Nat) :
    RowCovers row x y c (left + 1) px py ↔
      (row.getLsbD (7 - c) = true ∧ (x + c) % 64 = px ∧ y % 32 = py) ∨
        RowCovers row x y (c + 1) left px py := by
  constructor
  · rintro ⟨k, hk, hlt, hx, hy, hbit⟩
    rcases Nat.eq_or_lt_of_le hk with rfl | hgt
    · exact .inl ⟨hbit, hx, hy⟩
    · exact .inr ⟨k, hgt, by omega, hx, hy, hbit⟩
  · rintro (⟨hbit, hx, hy⟩ | ⟨k, hk, hlt, hx, hy, hbit⟩)
    · exact ⟨c, le_rfl, by omega, hx, hy, hbit⟩
    · exact ⟨k, by omega, by omega, hx, hy, hbit⟩

/-- At most 64 columns lie on different pixels. -/
theorem Blit.columns_flips (b : Blit) (x y : Nat) (row : Byte) (c left : Nat) (hleft : left ≤ 64) :
    b.Flips (RowCovers row x y c left) (b.columns x y row c left) := by
  induction left generalizing b c with
  | zero => exact .refl b fun _ _ ⟨_, hk, hlt, _⟩ => by omega
  | succ left ih =>
    refine (b.bit_flips (x + c) y _).trans (ih _ (c + 1) (by omega)) (rowCovers_succ row x y c left) ?_
    rintro px py ⟨_, hx, _⟩ ⟨k, hk, hlt, hx', _⟩
    omega

/-- The first row of a sprite and the others. -/
theorem spriteCovers_succ (m : Memory) (a n x y px py : Nat) :
    SpriteCovers m a (n + 1) x y px py ↔
      RowCovers (m.read a) x y 0 8 px py ∨ SpriteCovers m (a + 1) n x (y + 1) px py := by
  constructor
  · rintro ⟨_ | r, c, hr, hc, hx, hy, hbit⟩
    · exact .inl ⟨c, Nat.zero_le c, by omega, hx, hy, hbit⟩
    · exact .inr ⟨r, c, by omega, hc, hx, by omega, by rwa [Nat.add_right_comm a 1 r]⟩
  · rintro (⟨c, _, hc, hx, hy, hbit⟩ | ⟨r, c, hr, hc, hx, hy, hbit⟩)
    · exact ⟨0, c, by omega, by omega, hx, hy, hbit⟩
    · exact ⟨r + 1, c, by omega, hc, hx, by omega, by rwa [Nat.add_right_comm a 1 r] at hbit⟩

/-- At most 32 rows lie on different pixels. -/
theorem Blit.rows_flips (b : Blit) (m : Memory) (a n x y : Nat) (hn : n ≤ 32) :
    b.Flips (SpriteCovers m a n x y) (b.rows x y (m.readBlock a n)) := by
  induction n generalizing b a y with
  | zero => exact .refl b fun _ _ ⟨_, _, hr, _⟩ => Nat.not_lt_zero _ hr
  | succ n ih =>
    refine (b.columns_flips x y (m.read a) 0 8 (by decide)).trans (ih _ (a + 1) (y + 1) (by omega))
      (spriteCovers_succ m a n x y) ?_
    rintro px py ⟨_, _, _, _, hy, _⟩ ⟨r, _, hr, _, _, hy', _⟩
    omega

/-- A sprite of at most 32 rows, of which DRW draws at most 15. -/
theorem Display.blit_flips (d : Display) (m : Memory) (a x y : Nat) {n : Nat} (hn : n < 16) :
    Blit.Flips ⟨d, false⟩ (SpriteCovers m a n x y) (d.blit x y (m.readBlock a n)) :=
  Blit.rows_flips _ m a n x y (by omega)

/-! ## The same pixels twice (R224) -/

/-- The display is known once every pixel with unwrapped coordinates is. -/
theorem Display.ext_of_lt {d d' : Display}
    (h : ∀ px < 64, ∀ py < 32, d.pixel px py = true ↔ d'.pixel px py = true) : d = d' := by
  refine Display.ext d d' fun x y => ?_
  rw [← Display.pixel_mod d, ← Display.pixel_mod d', Bool.eq_iff_iff]
  exact h _ (Nat.mod_lt x (by decide)) _ (Nat.mod_lt y (by decide))

section
variable {S : Nat → Nat → Prop} {d : Display} {c c' : Bool} {b b' : Blit}
  (h : Blit.Flips ⟨d, c⟩ S b) (h' : Blit.Flips ⟨b.disp, c'⟩ S b')
include h h'

theorem Blit.Flips.twice_disp : b'.disp = d := by
  refine Display.ext_of_lt fun px hx py hy => ?_
  rw [h'.pixel px hx py hy, h.pixel px hx py hy]
  tauto

/-- The pixels the second blit finds set are those the first found unset. -/
theorem Blit.Flips.twice_collision : b'.collision = true ↔
    c' = true ∨ ∃ px < 64, ∃ py < 32, d.pixel px py = false ∧ S px py := by
  have hset : ∀ px < 64, ∀ py < 32,
      (b.disp.pixel px py = true ∧ S px py ↔ d.pixel px py = false ∧ S px py) := by
    intro px hx py hy
    rw [h.pixel px hx py hy, ← Bool.not_eq_true]
    tauto
  rw [h'.collision]
  exact or_congr_right (exists_congr fun px => and_congr_right fun hx => exists_congr fun py =>
    and_congr_right fun hy => hset px hx py hy)

end

theorem byte_ne_zero_iff (b : Byte) : b ≠ 0 ↔ ∃ c < 8, b.getLsbD (7 - c) = true := by
  constructor
  · intro hb
    obtain ⟨i, hi, hbit⟩ : ∃ i < 8, b.getLsbD i = true := by
      by_contra! hnone
      exact hb (BitVec.eq_of_getLsbD_eq fun i hi => by simpa using hnone i hi)
    exact ⟨7 - i, by omega, by rwa [Nat.sub_sub_self (by omega)]⟩
  · rintro ⟨c, _, hbit⟩ rfl
    simp at hbit

/-- A sprite covers some pixel when it "has any bit 1". -/
theorem exists_spriteCovers_iff (m : Memory) (a n x y : Nat) :
    (∃ px < 64, ∃ py < 32, SpriteCovers m a n x y px py) ↔ ∃ r < n, m.read (a + r) ≠ 0 := by
  constructor
  · rintro ⟨_, _, _, _, r, c, hr, hc, _, _, hbit⟩
    exact ⟨r, hr, (byte_ne_zero_iff _).2 ⟨c, hc, hbit⟩⟩
  · rintro ⟨r, hr, hne⟩
    obtain ⟨c, hc, hbit⟩ := (byte_ne_zero_iff _).1 hne
    exact ⟨_, Nat.mod_lt (x + c) (by decide), _, Nat.mod_lt (y + r) (by decide), r, c, hr, hc, rfl, rfl, hbit⟩

/-! ## DRW -/

@[simp] theorem State.getV_drawn_VF (s : State) (b : Blit) :
    (s.drawn b).getV VF = flagByte b.collision :=
  State.getV_setV_self { s with disp := b.disp } VF _

theorem State.getV_drawn_of_ne (s : State) (b : Blit) {r : Reg} (hr : r ≠ VF) :
    (s.drawn b).getV r = s.getV r :=
  State.getV_setV_of_ne { s with disp := b.disp } VF r _ hr

theorem flagByte_zero_or_one (c : Bool) : flagByte c = 0 ∨ flagByte c = 1 := by
  cases c with
  | false => exact .inl rfl
  | true => exact .inr rfl

theorem exec_drw_of_le {n : Nat} {s : State} (x y : Reg) (h : n = 0 ∨ s.I.toNat + n ≤ 0x1000) :
    exec (.drw x y n) s = .next (s.drawn
      (s.disp.blit (s.getV x).toNat (s.getV y).toNat (s.mem.readBlock s.I.toNat n))) :=
  ((execDrw_cases x y n s).resolve_left fun ⟨hn, hout, _⟩ => by omega).2

end Sys2Proof.Machine

/-! ## The obligations -/

namespace Sys2Proof.Proofs

open Sys2Proof.Machine

/-- Settles O50: the sprite's bits lie on different pixels, so the blit flips each of them once and finds
it as it was. -/
theorem drawXorsPixels : Obligations.DrawXorsPixels := by
  unfold Obligations.DrawXorsPixels
  refine fun x y n s => ⟨spells_of_encode (decide_eq_true n.isLt) (xynWord_eq_formatXYN 0xD x y n),
    fun hfits => ?_⟩
  have hblit := s.disp.blit_flips s.mem s.I.toNat (s.getV x).toNat (s.getV y).toNat n.isLt
  refine ⟨_, exec_drw_of_le x y hfits, hblit.pixel, ?_, ?_, fun r hr => State.getV_drawn_of_ne s _ hr, rfl,
    .mono _ _ _ _ (by simp) (drawn_frame s _)⟩
  · rw [State.getV_drawn_VF, flagByte_eq_one_iff, hblit.collision, or_iff_right Bool.false_ne_true]
  · rw [State.getV_drawn_VF]
    exact flagByte_zero_or_one _

/-- Settles O51: the second draw flips the same pixels, as the first leaves the coordinates, `I` and
memory; the pixels it finds set are those the first found unset. -/
theorem drawTwiceRestores : Obligations.DrawTwiceRestores := by
  unfold Obligations.DrawTwiceRestores
  intro x y n s t u hx hy hn hfits hst htu covers
  cases (exec_drw_of_le x y hfits).symm.trans hst
  cases (exec_drw_of_le (s := s.drawn _) x y hfits).symm.trans htu
  have hfirst := s.disp.blit_flips s.mem s.I.toNat (s.getV x).toNat (s.getV y).toNat hn
  simp only [State.getV_drawn_VF, State.getV_drawn_of_ne _ _ hx, State.getV_drawn_of_ne _ _ hy,
    State.drawn_disp, State.drawn_mem, State.drawn_I, flagByte_eq_one_iff]
  have hsecond := Display.blit_flips (s.disp.blit (s.getV x).toNat (s.getV y).toNat
    (s.mem.readBlock s.I.toNat n)).disp s.mem s.I.toNat (s.getV x).toNat (s.getV y).toNat hn
  have hcollision := (hfirst.twice_collision hsecond).trans (or_iff_right Bool.false_ne_true)
  refine ⟨hfirst.twice_disp hsecond, hcollision, fun hunset => ?_⟩
  rw [hcollision, ← exists_spriteCovers_iff s.mem s.I.toNat n (s.getV x).toNat (s.getV y).toNat]
  exact exists_congr fun px => and_congr_right fun hpx => exists_congr fun py =>
    and_congr_right fun hpy => and_iff_right_of_imp (hunset px hpx py hpy)

/-- Settles O49: a cleared display has no pixel set; CLS writes nothing else but `pc`. -/
theorem clearDisplay : Obligations.ClearDisplay := by
  unfold Obligations.ClearDisplay
  exact ⟨spells_of_encode rfl rfl,
    fun s => ⟨_, rfl, Display.clear_pixel, rfl, (withDisp_frame s _).trans (advance_frame _)⟩⟩

end Sys2Proof.Proofs

/-!
The statements about the keys and the timers: the skips on a key, the wait for a key, and the reads and
writes of the timers (spec 45_keys_timers.md R240 to R247).
-/

namespace Sys2Proof.Machine

/-! ## The skips on a key (R240 to R242) -/

section
variable {x : Reg} {s : State}

theorem exec_skp_of_key {k : Fin 16} (h : (s.getV x).toNat = k.val) :
    exec (.skp x) s = .next (s.skipWhen s.keys[k]) := by
  rcases execSkp_cases x s with ⟨hge, _⟩ | ⟨_, hnext⟩
  · omega
  · simp only [h] at hnext
    exact hnext

theorem exec_sknp_of_key {k : Fin 16} (h : (s.getV x).toNat = k.val) :
    exec (.sknp x) s = .next (s.skipWhen (!s.keys[k])) := by
  rcases execSknp_cases x s with ⟨hge, _⟩ | ⟨_, hnext⟩
  · omega
  · simp only [h] at hnext
    exact hnext

theorem skp_haltsWith (h : 0xF < (s.getV x).toNat) : HaltsWith (.skp x) s (.operandRange (s.getV x)) := by
  rcases execSkp_cases x s with ⟨_, hhalt⟩ | ⟨hlt, _⟩
  · exact haltsWith_of_exec hhalt
  · omega

theorem sknp_haltsWith (h : 0xF < (s.getV x).toNat) : HaltsWith (.sknp x) s (.operandRange (s.getV x)) := by
  rcases execSknp_cases x s with ⟨_, hhalt⟩ | ⟨hlt, _⟩
  · exact haltsWith_of_exec hhalt
  · omega

end

/-! ## The wait for a key (R244, R245) -/

/-- A set key with no set key below it is the one observed (decision D12). -/
theorem firstKey_of_lowest {keys : Latch} {k : Fin 16} (hk : keys[k] = true)
    (hlow : ∀ j : Fin 16, j < k → keys[j] = false) : firstKey keys = some k := by
  cases hfirst : firstKey keys with
  | none => exact absurd hk (Bool.eq_false_iff.1 ((firstKey_none_iff keys).1 hfirst k))
  | some k' =>
    obtain ⟨hk', hlow'⟩ := firstKey_some keys k' hfirst
    have hge : k ≤ k' := Fin.not_lt.1 fun hlt => absurd hk' (Bool.eq_false_iff.1 (hlow k' hlt))
    have hle : k' ≤ k := Fin.not_lt.1 fun hlt => absurd hk (Bool.eq_false_iff.1 (hlow' k hlt))
    exact congrArg some (Fin.le_antisymm hle hge)

theorem exec_ldVxK_of_firstKey (x : Reg) {s : State} {k : Fin 16} (h : firstKey s.keys = some k) :
    exec (.ldVxK x) s = .next (s.setV x (BitVec.ofNat 8 k.val)).advance := by
  rcases execLdVxK_cases x s with ⟨_, hkey, hnext⟩ | ⟨hnone, _⟩
  · cases hkey.symm.trans h
    exact hnext
  · cases hnone.symm.trans h

theorem exec_ldVxK_of_no_key (x : Reg) {s : State} (h : firstKey s.keys = none) :
    exec (.ldVxK x) s = .next s.endBatch := by
  rcases execLdVxK_cases x s with ⟨_, hkey, _⟩ | ⟨_, hblocked⟩
  · cases hkey.symm.trans h
  · exact hblocked

/-- A key index fits in a register. -/
theorem ofNat_key_toNat (k : Fin 16) : (BitVec.ofNat 8 k.val).toNat = k.val :=
  Nat.mod_eq_of_lt (by omega)

end Sys2Proof.Machine

/-! ## The obligations -/

namespace Sys2Proof.Proofs

open Sys2Proof.Machine

/-- Settles O52: both are skips, on the flag of the key and on its negation; a value that is no key index
halts both. -/
theorem skipOnKey : Obligations.SkipOnKey := by
  unfold Obligations.SkipOnKey
  refine fun x s => ⟨spells_of_encode rfl (xkkWord_eq_formatXKK 0xE x 0x9E),
    spells_of_encode rfl (xkkWord_eq_formatXKK 0xE x 0xA1),
    fun k hk => ⟨skips_of_exec (exec_skp_of_key hk) Iff.rfl, ?sknp⟩,
    fun hout => ⟨skp_haltsWith hout, sknp_haltsWith hout⟩⟩
  case sknp =>
    have hskip := skips_of_exec (P := ¬ s.keys[k] = true) (exec_sknp_of_key hk) Bool.not_iff_not
    simpa only [ite_not] using hskip

/-- Settles O53: one register is written, with the delay timer. -/
theorem readDelayTimer : Obligations.ReadDelayTimer := by
  unfold Obligations.ReadDelayTimer
  exact fun x s => ⟨spells_of_encode rfl (xkkWord_eq_formatXKK 0xF x 0x07),
    _, rfl, State.getV_setV_self s x s.DT, setV_advance_keeps s x s.DT⟩

/-- Settles O54: the two ends of LD_VX_K, by a key being observed. -/
theorem waitForKey : Obligations.WaitForKey := by
  unfold Obligations.WaitForKey
  refine fun x s => ⟨spells_of_encode rfl (xkkWord_eq_formatXKK 0xF x 0x0A), fun k hk hlow => ?observed,
    fun hnone => ?blocked⟩
  case observed =>
    refine ⟨_, exec_ldVxK_of_firstKey x (firstKey_of_lowest hk hlow), ?_, setV_advance_keeps s x _⟩
    rw [State.getV_advance, State.getV_setV_self, ofNat_key_toNat]
  case blocked =>
    exact ⟨_, exec_ldVxK_of_no_key x ((firstKey_none_iff s.keys).2 hnone), rfl, endBatch_frame s⟩

/-- Settles O55: each writes its own timer, with the register's value. -/
theorem setTimers : Obligations.SetTimers := by
  unfold Obligations.SetTimers
  exact fun x s =>
    ⟨⟨spells_of_encode rfl (xkkWord_eq_formatXKK 0xF x 0x15),
        _, rfl, rfl, rfl, (withDT_frame s _).trans (advance_frame _)⟩,
      ⟨spells_of_encode rfl (xkkWord_eq_formatXKK 0xF x 0x18),
        _, rfl, rfl, rfl, (withST_frame s _).trans (advance_frame _)⟩⟩

end Sys2Proof.Proofs

/-!
The statements about exceptions and the frame tick: the fatal errors, the tick as steps of the machine, the
end bound, Halted, and the invariant under the host's actions (spec 60_exceptions.md R260 to R287).
-/

namespace Sys2Proof.Machine

/-! ## The start of a tick (R271, R280, R281) -/

/-- A timer's decrement stops at zero. -/
theorem decay_toNat (b : Byte) : (decay b).toNat = b.toNat - 1 := by
  have := b.isLt
  unfold decay
  split
  · next h => simp [h]
  · next h =>
    have hpos : b.toNat ≠ 0 := fun h0 => h (BitVec.eq_of_toNat_eq h0)
    rw [byte_sub_toNat, show (1 : Byte).toNat = 1 from rfl]
    omega

theorem step_between_ticks {s : State} (hrun : s.run = .running) (hb : s.batch = 0) :
    step s = batchTurn s.enterTick := by
  rw [step_of_running s hrun, if_pos hb]

theorem step_mid_tick {s : State} (hrun : s.run = .running) (hb : s.batch ≠ 0) : step s = batchTurn s := by
  rw [step_of_running s hrun, if_neg hb]

theorem hardware_batch : hardware.batch = 8 := rfl

/-- A step that begins a tick is the first step inside it. -/
theorem step_enterTick {s : State} (hrun : s.run = .running) (hb : s.batch = 0) :
    step s.enterTick = step s := by
  rw [step_between_ticks hrun hb, step_mid_tick (by simpa using hrun) (by simp [hardware_batch])]

/-- The tick takes the latch value supplied for it, and queues the random bytes behind the others. -/
theorem enterTick_supply (s : State) (keys : Latch) (rand : List Byte) :
    (s.supply keys rand).enterTick.keys = keys ∧
      (s.supply keys rand).enterTick.env.latches = s.env.latches ∧
      (s.supply keys rand).enterTick.env.randoms = s.env.randoms ++ rand := by
  obtain ⟨hkeys, henv⟩ := (s.supply keys rand).enterTick_of_latch keys s.env.latches rfl
  rw [henv]
  exact ⟨hkeys, rfl, rfl⟩

/-! ## Runs of the machine -/

theorem run_succ_of_step {s t : State} (k : Nat) (h : step s = .next t) :
    Host.Core.run Sys2Proof.core (k + 1) s = Host.Core.run Sys2Proof.core k t := by
  have h' : Sys2Proof.core.step s = .next t := h
  simp only [Host.Core.run, h']

theorem run_one_of_step {s t : State} (h : step s = .next t) :
    Host.Core.run Sys2Proof.core 1 s = .next t := run_succ_of_step 0 h

/-- States with the same next step run alike from the first step on. -/
theorem run_congr_of_step {s t : State} {k : Nat} (hk : 1 ≤ k) (h : step s = step t) :
    Host.Core.run Sys2Proof.core k s = Host.Core.run Sys2Proof.core k t := by
  obtain ⟨j, rfl⟩ := Nat.exists_eq_add_of_le' hk
  have h' : Sys2Proof.core.step s = Sys2Proof.core.step t := h
  simp only [Host.Core.run, h']

theorem run_of_halted {s : State} (h : s.run = .halted) (k : Nat) :
    Host.Core.run Sys2Proof.core k s = .next s := by
  induction k with
  | zero => rfl
  | succ k ih => exact (run_succ_of_step k (step_of_halted s h)).trans ih

/-! ## A turn and the rest of a batch (R280 to R283) -/

/-- Why a tick takes no further step: Halted, the end bound, or an Fx0A that observes no key. -/
def State.TickStops (t : State) : Prop :=
  t.run = .halted ∨ 0x1000 ≤ t.pc.toNat ∨
    ∃ w x, fetch t = .ok w ∧ decode w = .ok (.ldVxK x) ∧ ∀ k : Fin 16, t.keys[k] = false

/-- An instruction of the running machine goes on in the batch, halts, or is an Fx0A that blocks. -/
theorem exec_goesOn_or_ends {i : Instr} {s t : State} (hrun : s.run = .running) (h : exec i s = .next t) :
    (t.run = .running ∧ t.batch = s.batch) ∨ (t.run = .halted ∧ t.batch = 0) ∨
      ∃ x, i = .ldVxK x ∧ firstKey s.keys = none ∧ t = s.endBatch := by
  obtain ⟨u, hu, ⟨hsame, _⟩ | ⟨e, rfl⟩⟩ := exec_cases i s <;> cases hu.symm.trans h
  · have hgoes : t.run = .running := hsame.trans hrun
    by_cases hb : t.batch = s.batch
    · exact .inl ⟨hgoes, hb⟩
    · obtain ⟨x, rfl⟩ := eq_ldVxK_of_batch_changed h hgoes hb
      rcases execLdVxK_cases x s with ⟨_, _, h'⟩ | ⟨hnone, h'⟩ <;> cases h'.symm.trans h
      · exact absurd rfl hb
      · exact .inr (.inr ⟨x, rfl, hnone, rfl⟩)
  · exact .inr (.inl ⟨rfl, rfl⟩)

theorem coreStep_goesOn_or_stops {s t : State} (hrun : s.run = .running) (h : coreStep s = .next t) :
    t.keys = s.keys ∧ ((t.run = .running ∧ t.batch = s.batch) ∨ (t.batch = 0 ∧ t.TickStops)) := by
  rcases coreStep_cases s _ h with ⟨_, _, ht⟩ | ⟨_, _, _, _, ht⟩ | ⟨w, i, hf, hd, ht⟩
  · cases ht
    exact ⟨rfl, .inr ⟨rfl, .inl rfl⟩⟩
  · cases ht
    exact ⟨rfl, .inl ⟨hrun, rfl⟩⟩
  · refine ⟨exec_keys ht.symm, ?_⟩
    rcases exec_goesOn_or_ends hrun ht.symm with hgoes | ⟨hhalt, hb⟩ | ⟨x, rfl, hnone, rfl⟩
    · exact .inl hgoes
    · exact .inr ⟨hb, .inl hhalt⟩
    · exact .inr ⟨rfl, .inr (.inr ⟨w, x, hf, hd, (firstKey_none_iff s.keys).1 hnone⟩)⟩

/-- A turn of the batch keeps the latch value, and uses one turn up or ends the batch for a reason. -/
theorem batchTurn_goesOn_or_stops {s t : State} (hrun : s.run = .running) (h : batchTurn s = .next t) :
    t.keys = s.keys ∧ ((t.run = .running ∧ t.batch = s.batch - 1) ∨ (t.batch = 0 ∧ t.TickStops)) := by
  rcases Nat.lt_or_ge s.pc.toNat 0x1000 with hpc | hpc
  · rw [batchTurn_below_end s hpc] at h
    exact coreStep_goesOn_or_stops (s := { s with batch := s.batch - 1 }) hrun h
  · cases (batchTurn_at_end s hpc).symm.trans h
    exact ⟨rfl, .inr ⟨rfl, .inr (.inl hpc)⟩⟩

theorem runBatch_succ {s t : State} (n : Nat) (h : batchTurn s = .next t) :
    runBatch (n + 1) s = if t.batch = 0 then .next t else runBatch n t := by
  simp only [runBatch, h]

/-- The rest of a batch is that many steps of the machine, or fewer when something stops the tick. -/
theorem runBatch_eq_run (n : Nat) : ∀ s : State, s.run = .running → s.batch = n + 1 →
    ∃ m t, 1 ≤ m ∧ m ≤ n + 1 ∧ runBatch (n + 1) s = .next t ∧ t.batch = 0 ∧ t.keys = s.keys ∧
      Host.Core.run Sys2Proof.core m s = .next t ∧ (m = n + 1 ∨ t.TickStops) := by
  induction n with
  | zero =>
    intro s hrun hb
    obtain ⟨t, ht⟩ := batchTurn_next s
    obtain ⟨hkeys, hend⟩ := batchTurn_goesOn_or_stops hrun ht
    have hstep : step s = .next t := (step_mid_tick hrun (by omega)).trans ht
    have hdone : t.batch = 0 := by omega
    exact ⟨1, t, le_rfl, le_rfl, by rw [runBatch_succ 0 ht, if_pos hdone], hdone, hkeys,
      run_one_of_step hstep, .inl rfl⟩
  | succ n ih =>
    intro s hrun hb
    obtain ⟨t, ht⟩ := batchTurn_next s
    have hstep : step s = .next t := (step_mid_tick hrun (by omega)).trans ht
    have hbatch := runBatch_succ (n + 1) ht
    obtain ⟨hkeys, ⟨hgoes, hleft⟩ | ⟨hdone, hstops⟩⟩ := batchTurn_goesOn_or_stops hrun ht
    · obtain ⟨m, u, hm, hle, hrest, hu, hukeys, hmrun, hwhy⟩ := ih t hgoes (by omega)
      refine ⟨m + 1, u, by omega, by omega, ?_, hu, hukeys.trans hkeys,
        (run_succ_of_step m hstep).trans hmrun, hwhy.imp_left (congrArg (· + 1))⟩
      rw [hbatch, if_neg (by omega), hrest]
    · exact ⟨1, t, le_rfl, by omega, by rw [hbatch, if_pos hdone], hdone, hkeys,
        run_one_of_step hstep, .inr hstops⟩

/-! ## The whole tick -/

theorem tick_of_halted {s : State} (h : s.run = .halted) (keys : Latch) (rand : List Byte) :
    tick keys rand s = .next s := by
  simp only [tick, h]

theorem tick_of_running {s : State} (h : s.run = .running) (keys : Latch) (rand : List Byte) :
    tick keys rand s = runBatch hardware.batch (s.supply keys rand).enterTick := by
  simp only [tick, h]

/-! ## The invariant under the host's actions -/

theorem runBatch_inv (n : Nat) : ∀ {s t : State}, s.Inv → runBatch n s = .next t → t.Inv := by
  induction n with
  | zero =>
    intro s t hs h
    cases h
    exact hs
  | succ n ih =>
    intro s t hs h
    obtain ⟨u, hu⟩ := batchTurn_next s
    have hinv := batchTurn_inv hs hu
    rw [runBatch_succ n hu] at h
    split at h
    · cases h
      exact hinv
    · exact ih hinv h

theorem State.Inv.supply {s : State} (hs : s.Inv) (keys : Latch) (rand : List Byte) :
    (s.supply keys rand).Inv := { hs with }

/-- A quit between ticks keeps the invariant: no batch is left to run. -/
theorem State.Inv.quit {s : State} (hs : s.Inv) (hb : s.batch = 0) : s.quit.Inv :=
  { hs with record_halted := fun _ => rfl, halted_idle := fun _ => hb }

theorem resetAction_inv {p : ResetParams} (hI : p.regs.I.toNat ≤ 0xFFF) (s : State) :
    (s.resetAction p).Inv := { resetFor_inv p hI with }

theorem tick_inv {keys : Latch} {rand : List Byte} {s t : State} (hs : s.Inv)
    (h : tick keys rand s = .next t) : t.Inv := by
  cases hrun : s.run with
  | halted =>
    cases (tick_of_halted hrun keys rand).symm.trans h
    exact hs
  | running =>
    rw [tick_of_running hrun] at h
    exact runBatch_inv _ ((hs.supply keys rand).enterTick hrun) h

/-- A program that is accepted fits in memory. -/
theorem load_inv {bytes : List Byte} {s t : State} (hs : s.Inv) (h : load bytes s = .next t) : t.Inv := by
  rcases load_cases bytes s with ⟨_, h'⟩ | ⟨_, _, h'⟩ | ⟨_, hfits, h'⟩ <;> cases h'.symm.trans h
  have hm := Memory.writeBlock_wf bytes s.mem hs.mem_wf programBase
    (by simp only [maxProgram, programBase, memSize] at hfits ⊢; omega)
  exact { hs.withMem hm with }

theorem actWith_tick {s : State} (p : ResetParams) (keys : Latch) (rand : List Byte) (h : s.batch = 0) :
    actWith p (.tick keys rand) s = tick keys rand s := by
  simp [actWith, h]

/-! ## Where a fatal error comes from (R260) -/

/-- An instruction with two ends, a halt under `P` and one that leaves the halt record alone: if it has set a
record, then it is the halt's, and `P` held. -/
theorem raised_of_ends {P : Prop} {a : Answer} {s t : State} {e e' : FatalError} {p : Word}
    {w w' : Option Word} (hclean : s.haltRecord = none) (h : a = .next t)
    (hrec : t.haltRecord = some ⟨e, p, w⟩)
    (hends : (P ∧ a = .next (s.halt e' w')) ∨ ∃ u, a = .next u ∧ u.haltRecord = s.haltRecord) :
    P ∧ e' = e := by
  rcases hends with ⟨hP, hhalt⟩ | ⟨u, hnext, hu⟩
  · cases hhalt.symm.trans h
    cases hrec
    exact ⟨hP, rfl⟩
  · cases hnext.symm.trans h
    cases hclean.symm.trans (hu.symm.trans hrec)

end Sys2Proof.Machine

/-! ## The obligations -/

namespace Sys2Proof.Proofs

open Sys2Proof.Machine

/-- Settles O12: the tick is the rest of a full batch, and its first turn is the step that begins the tick. -/
theorem tickIsAtMostEightSteps : Obligations.TickIsAtMostEightSteps := by
  unfold Obligations.TickIsAtMostEightSteps
  intro s keys rand hrun hb
  obtain ⟨m, t, hm, hle, hbatch, hdone, hkeys, hsteps, hwhy⟩ :=
    runBatch_eq_run 7 (s.supply keys rand).enterTick (by simpa using hrun) (by simp [hardware_batch])
  refine ⟨m, t, hm, hle, (tick_of_running hrun keys rand).trans hbatch, hdone,
    hkeys.trans (enterTick_supply s keys rand).1, ?_, hwhy⟩
  rw [← run_congr_of_step hm (step_enterTick (s := s.supply keys rand) hrun hb), hsteps]

/-- Settles O4: an accepted action lands between ticks, and each of the four keeps the invariant. -/
theorem hostActionsKeepInvariant : Obligations.HostActionsKeepInvariant := by
  unfold Obligations.HostActionsKeepInvariant
  intro p a s t hI hs h
  by_cases hb : s.batch = 0
  case neg => cases (actWith_midTick p a hb).symm.trans h
  cases a with
  | tick keys rand => exact tick_inv hs ((actWith_tick p keys rand hb).symm.trans h)
  | load bytes => exact load_inv hs ((actWith_load p bytes hb).symm.trans h)
  | quit =>
    cases (actWith_quit p hb).symm.trans h
    exact hs.quit hb
  | reset =>
    cases (actWith_reset p hb).symm.trans h
    exact resetAction_inv hI s

/-- Settles O14: an instruction that leaves the run state alone has not halted the machine, and the other end
is its own halt. -/
theorem fatalErrorIsPrecise : Obligations.FatalErrorIsPrecise := by
  unfold Obligations.FatalErrorIsPrecise
  intro i s t hrun h hhalted
  obtain ⟨u, hu, ⟨hsame, _⟩ | ⟨e, rfl⟩⟩ := exec_cases i s <;> cases hu.symm.trans h
  · cases hrun.symm.trans (hsame.symm.trans hhalted)
  · exact ⟨⟨e, rfl⟩, halt_frame s e _⟩

/-- Settles O15: nine instructions have a halt among their ends, each with its own condition and error; no
other sets the record. -/
theorem fatalErrorsOnlyWhereListed : Obligations.FatalErrorsOnlyWhereListed := by
  unfold Obligations.FatalErrorsOnlyWhereListed
  intro i s t e p w hclean h hrec
  cases i with
  | ret =>
    obtain ⟨hempty, rfl⟩ := raised_of_ends hclean h hrec
      ((execRet_cases s).imp_right fun ⟨_, _, h'⟩ => ⟨_, h', rfl⟩)
    exact ⟨rfl, hempty⟩
  | call nnn =>
    obtain ⟨hfull, rfl⟩ := raised_of_ends hclean h hrec
      ((execCall_cases nnn s).imp_right fun ⟨_, h'⟩ => ⟨_, h', rfl⟩)
    exact ⟨⟨nnn, rfl⟩, hfull⟩
  | skp x =>
    obtain ⟨hout, rfl⟩ := raised_of_ends hclean h hrec
      ((execSkp_cases x s).imp_right fun ⟨_, h'⟩ => ⟨_, h', rfl⟩)
    exact ⟨hout, x, .inl rfl, rfl⟩
  | sknp x =>
    obtain ⟨hout, rfl⟩ := raised_of_ends hclean h hrec
      ((execSknp_cases x s).imp_right fun ⟨_, h'⟩ => ⟨_, h', rfl⟩)
    exact ⟨hout, x, .inr (.inl rfl), rfl⟩
  | ldFVx x =>
    obtain ⟨hout, rfl⟩ := raised_of_ends hclean h hrec
      ((execLdFVx_cases x s).imp_right fun ⟨_, h'⟩ => ⟨_, h', rfl⟩)
    exact ⟨hout, x, .inr (.inr rfl), rfl⟩
  | drw x y n =>
    obtain ⟨⟨hn, hI⟩, rfl⟩ := raised_of_ends hclean h hrec
      ((execDrw_cases x y n s).imp (fun ⟨hn, hI, h'⟩ => ⟨And.intro hn hI, h'⟩)
        fun ⟨_, h'⟩ => ⟨_, h', rfl⟩)
    exact ⟨rfl, .inl ⟨x, y, n, rfl, hn, hI⟩⟩
  | ldBVx x =>
    obtain ⟨hI, rfl⟩ := raised_of_ends hclean h hrec
      ((execLdBVx_cases x s).imp_right fun ⟨_, h'⟩ => ⟨_, h', rfl⟩)
    exact ⟨rfl, .inr (.inl ⟨x, rfl, by omega⟩)⟩
  | ldMemVx x =>
    obtain ⟨hI, rfl⟩ := raised_of_ends hclean h hrec
      ((execLdMemVx_cases x s).imp_right fun ⟨_, h'⟩ => ⟨_, h', rfl⟩)
    exact ⟨rfl, .inr (.inr (.inl ⟨x, rfl, by omega⟩))⟩
  | ldVxMem x =>
    obtain ⟨hI, rfl⟩ := raised_of_ends hclean h hrec
      ((execLdVxMem_cases x s).imp_right fun ⟨_, h'⟩ => ⟨_, h', rfl⟩)
    exact ⟨rfl, .inr (.inr (.inr ⟨x, rfl, by omega⟩))⟩
  | ldVxK x =>
    rcases execLdVxK_cases x s with ⟨_, _, h'⟩ | ⟨_, h'⟩ <;> cases h'.symm.trans h <;>
      cases hclean.symm.trans hrec
  | _ =>
    cases h
    simp [hclean] at hrec

/-- Settles O9: the step ends the batch of the state it finds or of the tick it begins, and only the tick's
start touches the timers. -/
theorem endBoundTakesNoStep : Obligations.EndBoundTakesNoStep := by
  unfold Obligations.EndBoundTakesNoStep
  intro s hrun hpc
  by_cases hb : s.batch = 0
  · have hend := batchTurn_at_end s.enterTick (by simpa using hpc)
    refine ⟨_, (step_between_ticks hrun hb).trans hend, rfl, ?_, ?_, ?_, fun hne => absurd hb hne⟩
    · simp [hb, decay_toNat]
    · simp [hb, decay_toNat]
    · exact .mono _ _ _ _ (by simp) ((enterTick_frame s).trans (endBatch_frame _))
  · refine ⟨_, (step_mid_tick hrun hb).trans (batchTurn_at_end s hpc), rfl, by simp [hb], by simp [hb], ?_,
      fun _ => endBatch_frame s⟩
    exact .mono _ _ _ _ (by simp) (endBatch_frame s)

/-- Settles O10: a step from Halted answers the same state, and so does any number of them. -/
theorem haltedMachineStaysPut : Obligations.HaltedMachineStaysPut := by
  unfold Obligations.HaltedMachineStaysPut
  exact fun _ h => ⟨run_of_halted h, tick_of_halted h⟩

/-- Settles O11: the start of a tick field by field, and the step as the decoded instruction in the state at
its turn. -/
theorem tickDecaysTimersOnce : Obligations.TickDecaysTimersOnce := by
  unfold Obligations.TickDecaysTimersOnce
  intro s
  refine ⟨by rw [State.enterTick_DT, decay_toNat], by rw [State.enterTick_ST, decay_toNat],
    s.enterTick_batch, s.enterTick_loadOpen, enterTick_frame s, fun k rest hq => ?queued,
    fun hnone => ?noneQueued, s.enterTick_randoms, enterTick_supply s, step_between_ticks, step_mid_tick,
    fun i hrun hpc hd => ?executes⟩
  case queued =>
    obtain ⟨hkeys, henv⟩ := s.enterTick_of_latch k rest hq
    exact ⟨hkeys, congrArg Env.latches henv⟩
  case noneQueued => rw [(s.enterTick_of_no_latch hnone).2, hnone]
  case executes =>
    have hstep := (stepRunsDecodedInstruction s i hrun hpc hd).1
    exact ⟨fun hb => State.atTurn_between_ticks hb ▸ hstep, fun hb => State.atTurn_mid_tick hb ▸ hstep⟩

end Sys2Proof.Proofs
